-- ==== Sys2Proof/Word.lean ====
section
/-!
DEFINITION. The word types of the 65816 console core.
Bytes, 16-bit words and 24-bit addresses are bit vectors because the manual adds, masks and slices them (R12, R13).
-/

namespace Sys2Proof

/-- An 8-bit value: a memory byte, an audio register, a status register (R12). -/
abbrev Byte := BitVec 8

/-- A 16-bit value: a main-CPU register, an audio address, a VRAM word (R9, R14). -/
abbrev Word := BitVec 16

/-- A 24-bit main-CPU address, `bank<<16 | offset` (R9, R19). -/
abbrev Addr := BitVec 24

/-- A sparse array in one canonical form: keys strictly rising, no entry equal to what an unlisted key reads as.
The default an unlisted key reads as is named where the array is read (`Cells.read`). `Cells Byte` is a list of `Host.Cell`. -/
abbrev Cells (α : Type) := List (Nat × α)

end Sys2Proof
end

