-- ==== Sys2Proof/Machine/Bits.lean ====
section
/-!
DEFINITION. Bit-field, byte-order and sign-extension helpers (R12, R13, R200).
-/

namespace Sys2Proof.Machine

/-- Bits 7-0 of a word. -/
def lo (w : Word) : Byte := w.extractLsb' 0 8

/-- Bits 15-8 of a word. -/
def hi (w : Word) : Byte := w.extractLsb' 8 8

/-- `h ++ l`: the word with high byte `h` and low byte `l`. -/
def mkWord (h l : Byte) : Word := h ++ l

/-- The word with its low byte replaced. -/
def setLo (w : Word) (b : Byte) : Word := mkWord (hi w) b

/-- The word with its high byte replaced. -/
def setHi (w : Word) (b : Byte) : Word := mkWord b (lo w)

/-- A byte zero-extended to 16 bits. -/
def zext (b : Byte) : Word := b.setWidth 16

/-- `sext_8(b)` as a 16-bit value. -/
def sext (b : Byte) : Word := b.signExtend 16

/-- The 24-bit address `bank<<16 | offset` (R9). -/
def mkAddr (bank : Byte) (off : Word) : Addr := bank ++ off

/-- The bank of an address. -/
def bankOf (a : Addr) : Byte := a.extractLsb' 16 8

/-- The offset of an address in its bank. -/
def offOf (a : Addr) : Word := a.extractLsb' 0 16

/-- A Boolean as bit `i` of a byte, the other bits zero. -/
def bitAt (i : Nat) (b : Bool) : Byte := if b then 1#8 <<< i else 0#8

/-- A byte with bit `i` set to `b`. -/
def putBit (i : Nat) (b : Bool) (v : Byte) : Byte := (v &&& ~~~(1#8 <<< i)) ||| bitAt i b

/-- Byte `j` of a word, low byte first (R200). -/
def byteOf (v : Word) (j : Nat) : Byte := if j = 0 then lo v else hi v

end Sys2Proof.Machine
end

