-- ==== Sys2Proof/Machine/BootRom.lean ====
section
/-!
DEFINITION. The audio boot ROM (R131, R990).
-/

namespace Sys2Proof.Machine

/-- `ipl[0..15]`, audio addresses 0xFFC0 to 0xFFCF (R990). -/
def ipl0 : List Byte :=
  [0xCD, 0xEF, 0xBD, 0xE8, 0x00, 0xC6, 0x1D, 0xD0, 0xFC, 0x8F, 0xAA, 0xF4, 0x8F, 0xBB, 0xF5, 0x78]

/-- `ipl[16..31]`, audio addresses 0xFFD0 to 0xFFDF (R990). -/
def ipl1 : List Byte :=
  [0xCC, 0xF4, 0xD0, 0xFB, 0x2F, 0x19, 0xEB, 0xF4, 0xD0, 0xFC, 0x7E, 0xF4, 0xD0, 0x0B, 0xE4, 0xF5]

/-- `ipl[32..47]`, audio addresses 0xFFE0 to 0xFFEF (R990). -/
def ipl2 : List Byte :=
  [0xCB, 0xF4, 0xD7, 0x00, 0xFC, 0xD0, 0xF3, 0xAB, 0x01, 0x10, 0xEF, 0x7E, 0xF4, 0x10, 0xEB, 0xBA]

/-- `ipl[48..63]`, audio addresses 0xFFF0 to 0xFFFF (R990). -/
def ipl3 : List Byte :=
  [0xF6, 0xDA, 0x00, 0xBA, 0xF4, 0xC4, 0xF4, 0xDD, 0x5D, 0xD0, 0xDB, 0x1F, 0x00, 0x00, 0xC0, 0xFF]

/-- The 64 constant bytes of the boot ROM (R131). -/
def ipl : List Byte := ipl0 ++ ipl1 ++ ipl2 ++ ipl3

/-- Byte `i` of the boot ROM, for audio address 0xFFC0 + i. -/
def iplByte (i : Nat) : Byte := ipl.getD i 0

end Sys2Proof.Machine
end

