-- ==== Sys2Proof/Machine/Cells.lean ====
section
/-!
DEFINITION. Sparse arrays in one canonical form: reading, writing, and the form itself.
Every memory of the machine is one of these: work RAM, cartridge ROM and RAM, audio RAM, VRAM, CGRAM, OAM, DMA bytes, framebuffers.
-/

namespace Sys2Proof

/-- The element at key `k`; an unlisted key reads as `d`. -/
def Cells.read {α : Type} (d : α) (k : Nat) : Cells α → α
  | [] => d
  | (k', v') :: t => if k' = k then v' else Cells.read d k t

/-- The array with key `k` set to `v`: keys stay rising, and writing what an unlisted key reads as removes the entry. -/
def Cells.write {α : Type} [DecidableEq α] (d : α) (k : Nat) (v : α) : Cells α → Cells α
  | [] => if v = d then [] else [(k, v)]
  | (k', v') :: t =>
    if k < k' then (if v = d then (k', v') :: t else (k, v) :: (k', v') :: t)
    else if k = k' then (if v = d then t else (k, v) :: t)
    else (k', v') :: Cells.write d k v t

/-- Keys strictly rising from `low` and below `size`, no entry equal to `d`. -/
def Cells.wfFrom {α : Type} [DecidableEq α] (d : α) (size low : Nat) : Cells α → Bool
  | [] => true
  | (k, v) :: t => decide (low ≤ k) && decide (k < size) && decide (v ≠ d) && Cells.wfFrom d size (k + 1) t

/-- The canonical form of an array of `size` elements whose unlisted elements read as `d`. -/
def Cells.wf {α : Type} [DecidableEq α] (d : α) (size : Nat) (c : Cells α) : Bool := Cells.wfFrom d size 0 c

/-- Each element of a list written at the keys from `k` on. -/
def Cells.writeList {α : Type} [DecidableEq α] (d : α) (k : Nat) : List α → Cells α → Cells α
  | [], c => c
  | v :: vs, c => Cells.writeList d (k + 1) vs (Cells.write d k v c)

end Sys2Proof
end

