-- ==== Sys2Proof/Config.lean ====
section
/-!
DEFINITION. What is fixed for one machine: the named parameters of R11 as plain data, and the free values of the host.
The parameters stand in State (`State.cfg`), so a statement about every state is a statement about every parameter (log 4).
-/

namespace Sys2Proof

/-- Cartridge mapper kind, `P_MAPPER` (R11, R190). -/
inductive Mapper where
  | loRom
  | loRomLarge
  | hiRom
deriving DecidableEq, Repr

/-- The regions a 2 KiB page can map to (R192). WRAM and SRAM are writable, ROM is not (R220). -/
inductive Region where
  | wram
  | rom
  | sram
deriving DecidableEq, Repr

/-- One row of a mapper table in the form of R222: the banks and offsets it covers, the region it maps to,
and the index formula `((bank AND bankMask) << bankShift) OR ((offset - offBase) AND offMask)`, taken modulo the region's size. -/
structure MapRow where
  bankLo    : Nat
  bankHi    : Nat
  offLo     : Nat
  offHi     : Nat
  region    : Region
  bankMask  : Nat
  bankShift : Nat
  offBase   : Nat
  offMask   : Nat
deriving DecidableEq, Repr

/-- `P_RESET_SCOPE` (R11, R1053). -/
inductive ResetScope where
  | asBuilt
  | full
deriving DecidableEq, Repr

/-- The math engine's registers (R162). -/
structure MathUnit where
  wrmpya : Byte
  wrmpyb : Byte
  wrdiv  : Word
  wrdivb : Byte
  rddiv  : Word
  rdmpy  : Word
deriving DecidableEq, Repr

/-- `P_INIT`, the power-on contents of the memories (R11, R1051); an unlisted element is zero (log 3). -/
structure PInit where
  wram  : Cells Byte
  vram  : Cells Word
  cgram : Cells (BitVec 15)
  oam   : Cells Byte
  aram  : Cells Byte
  sram  : Cells Byte
  dma   : Cells Byte
  math  : MathUnit
deriving DecidableEq, Repr

/-- What a main-CPU instruction's cost may depend on (R1070, R1090): its opcode, the flags E and P and the other facts of R1070,
with the registers as before the instruction. -/
structure CpuCostKey where
  op            : Byte
  e             : Bool
  p             : Byte
  /-- `D[7:0] != 0`. -/
  dlNonzero     : Bool
  /-- "The index crosses a page" (R407, R416). -/
  indexCrosses  : Bool
  /-- The branch is taken. -/
  taken         : Bool
  /-- "The branch crosses a page" (R423). -/
  branchCrosses : Bool
deriving DecidableEq, Repr

/-- What an audio instruction's cost may depend on: its opcode, and whether it branches (R650, R1071). -/
structure SpcCostKey where
  op    : Byte
  taken : Bool
deriving DecidableEq, Repr

/-- The parameters of R11. -/
structure Config where
  /-- `P_MASTER_PER_CYCLE`. -/
  masterPerCycle : Nat
  /-- `P_LINE_MASTER`. -/
  lineMaster     : Nat
  /-- `P_HBLANK_MASTER`. -/
  hblankMaster   : Nat
  /-- `P_APU_NUM`. -/
  apuNum         : Nat
  /-- `P_APU_DEN`. -/
  apuDen         : Nat
  /-- `P_TIMER_PRESCALE`, timer 0. -/
  prescale0      : Nat
  /-- `P_TIMER_PRESCALE`, timer 1. -/
  prescale1      : Nat
  /-- `P_TIMER_PRESCALE`, timer 2. -/
  prescale2      : Nat
  /-- `P_UNIMPL_OPS`. -/
  unimplOps      : List Byte
  /-- `P_UNIMPL_SPC_OPS`. -/
  unimplSpcOps   : List Byte
  /-- `P_CPU_CYCLES`: the costs that differ from the default table of R1070, each under all it may depend on (log 5). -/
  cpuCosts       : List (CpuCostKey × Nat)
  /-- `P_SPC_CYCLES`: the costs that differ from the default table of R1071 (log 5). -/
  spcCosts       : List (SpcCostKey × Nat)
  /-- `P_DMA_MASTER(n)` at key n; an unlisted n costs 0, the default (log 6). -/
  dmaCosts       : Cells Nat
  /-- `P_MAPPER`. -/
  mapper         : Mapper
  /-- `P_ROM`; an unlisted byte below `romSize` is zero. -/
  rom            : Cells Byte
  /-- The size of `P_ROM` in bytes. -/
  romSize        : Nat
  /-- `P_SRAM_SIZE`. -/
  sramSize       : Nat
  /-- `P_LARGE_LOROM_MAP`, absent by default (log 7). -/
  largeMap       : Option (List MapRow)
  /-- `P_RESET_SCOPE`. -/
  resetScope     : ResetScope
  /-- `P_INIT`. -/
  init           : PInit
  /-- `P_DEBUG_SENTINEL`. -/
  debugSentinel  : Byte
deriving DecidableEq, Repr

/-- `P_INIT` with every element zero, the default of R11 (log 3). -/
def PInit.zero : PInit :=
  { wram := [], vram := [], cgram := [], oam := [], aram := [], sram := [], dma := []
    math := { wrmpya := 0, wrmpyb := 0, wrdiv := 0, wrdivb := 0, rddiv := 0, rdmpy := 0 } }

/-- The defaults of R11, with the model's default cartridge: 32 KiB of zero bytes, LoROM, no cartridge RAM (DESIGN CHOICE, log 1). -/
def Config.default : Config :=
  { masterPerCycle := 6, lineMaster := 1364, hblankMaster := 1096
    apuNum := 1024000, apuDen := 21477272
    prescale0 := 128, prescale1 := 128, prescale2 := 16
    unimplOps := [], unimplSpcOps := []
    cpuCosts := [], spcCosts := [], dmaCosts := []
    mapper := .loRom, rom := [], romSize := 0x8000, sramSize := 0
    largeMap := none, resetScope := .asBuilt, init := PInit.zero, debugSentinel := 0 }

/-- `P_HOST_INPUT`: the byte the host gives for the n-th `draw()` of the main CPU's side (R11, R13, R239). Free: nothing constrains it (log 8). -/
opaque Config.hostInput (n : Nat) : Byte

/-- The byte the host gives for the n-th `draw()` on the audio CPU's side (R13). Free: nothing constrains it (log 8). -/
opaque Config.audioInput (n : Nat) : Byte

end Sys2Proof
end

