-- ==== Sys2Proof/Machine/EventQueue.lean ====
section
/-!
DEFINITION. Scheduler events, the order in which they leave the queue, and the queue a power-on or a full reset starts with (R181, R850).
-/

namespace Sys2Proof.Machine

/-- The event kinds (R181). -/
inductive EventKind where
  | hblank
  | eol
  | assertNmi
  | sentinel
deriving DecidableEq, Repr

/-- A queued event with its timestamp and insertion number (R181). -/
structure Event where
  kind : EventKind
  ts   : Nat
  seq  : Nat
deriving DecidableEq, Repr

/-- `a` leaves the queue before `b`: ascending timestamp, then insertion order (R181, R850). -/
def Event.before (a b : Event) : Bool := decide (a.ts < b.ts) || (decide (a.ts = b.ts) && decide (a.seq < b.seq))

/-- An event put in its place in an ordered queue. -/
def insertEvent (e : Event) : List Event → List Event
  | [] => [e]
  | x :: xs => if e.before x then e :: x :: xs else x :: insertEvent e xs

/-- The sentinel's timestamp (R181, R857). -/
def sentinelTs : Nat := 2 ^ 64 - 1

/-- `{(HBLANK, ts), (SENTINEL, 2^64 - 1)}` in order, whichever of the two comes first (R181, R850, R862; the numbers are log 22). -/
def startQueue (ts : Nat) : List Event := insertEvent ⟨.sentinel, sentinelTs, 1⟩ [⟨.hblank, ts, 0⟩]

end Sys2Proof.Machine
end

