-- ==== Sys2Proof/Machine/State.lean ====
section
/-!
DEFINITION. Everything the spec gives the machine (10_state.md), as plain data, and the state after reset.
Each field's docstring names its rule; INVENTORY.md lists them with their reset values.
-/

namespace Sys2Proof.Machine

/-- The main CPU's registers (R100 to R111). -/
structure Cpu where
  /-- The 16-bit accumulator C; A is its low byte, B its high byte (R100). -/
  c       : Word
  /-- Index register X (R101). -/
  x       : Word
  /-- Index register Y (R101). -/
  y       : Word
  /-- Stack pointer S (R102). -/
  s       : Word
  /-- Direct-page register D (R103). -/
  d       : Word
  /-- Program counter PC (R104). -/
  pc      : Word
  /-- Program bank PBR (R104). -/
  pbr     : Byte
  /-- Data bank DBR (R105). -/
  dbr     : Byte
  /-- Status register P: N V M X D I Z C, bit 7 to bit 0 (R106). -/
  p       : Byte
  /-- Emulation flag E (R107). -/
  e       : Bool
  /-- The running cycle counter (R110). -/
  cycles  : Nat
  /-- Cycles not yet converted to master ticks (R110, R855; log 15). -/
  pending : Nat
  /-- Set by WAI, cleared by an interrupt (R111). -/
  waiting : Bool
  /-- Set by STP, cleared by reset (R111). -/
  stopped : Bool
deriving DecidableEq, Repr

/-- Four values of one kind, indexed 0 to 3: the audio ports of one direction, the four backgrounds. -/
structure Quad (α : Type) where
  q0 : α
  q1 : α
  q2 : α
  q3 : α
deriving DecidableEq, Repr

/-- One audio timer (R132, R133). -/
structure Timer where
  /-- `ten`: the timer counts. -/
  en     : Bool
  /-- `ttarget`: the divisor, 0 means 256. -/
  target : Byte
  /-- `tout`: the visible counter. -/
  out    : BitVec 4
  /-- `tacc`: audio cycles accumulated toward the next increment. -/
  acc    : Nat
  /-- `tlast`: the `acycles` value of the last update. -/
  last   : Nat
deriving DecidableEq, Repr

/-- The audio CPU and its subsystem (R120 to R135). -/
structure Apu where
  /-- `a` (R120). -/
  a       : Byte
  /-- `x` (R120). -/
  x       : Byte
  /-- `y` (R120). -/
  y       : Byte
  /-- `sp` (R121). -/
  sp      : Byte
  /-- `pc` (R122). -/
  pc      : Word
  /-- `psw`: n v p b h i z c, bit 7 to bit 0 (R123). -/
  psw     : Byte
  /-- `acycles` (R124). -/
  acycles : Nat
  /-- `abase` (R124). -/
  abase   : Nat
  /-- `ahalted` (R125). -/
  halted  : Bool
  /-- `aram`, 65536 bytes (R130). -/
  aram    : Cells Byte
  /-- `ipl_on` (R132). -/
  iplOn   : Bool
  /-- Timer 0. -/
  timer0  : Timer
  /-- Timer 1. -/
  timer1  : Timer
  /-- Timer 2. -/
  timer2  : Timer
  /-- `pin`, written by the main CPU (R134). -/
  pin     : Quad Byte
  /-- `pout`, written by the audio CPU (R134). -/
  pout    : Quad Byte
  /-- `dsp_addr` (R135). -/
  dspAddr : Byte
  /-- `dsp_reg`, 128 bytes (R135). -/
  dspReg  : Cells Byte
  /-- `aux[0]` (R135). -/
  aux0    : Byte
  /-- `aux[1]` (R135). -/
  aux1    : Byte
  /-- `test` (R135). -/
  test    : Byte
  /-- The model's own counter that selects the next free value of an audio-side `draw()` (log 8). -/
  draws   : Nat
deriving DecidableEq, Repr

/-- One RGBA8888 pixel (R910). -/
structure Rgba where
  r : Byte
  g : Byte
  b : Byte
  a : Byte
deriving DecidableEq, Repr

/-- The registers of one background (R146 to R149). -/
structure BgLayer where
  /-- This layer's bit of `tilesize` (R146). -/
  tilesize : Bool
  /-- `scbase` (R147). -/
  scbase   : BitVec 6
  /-- `scsize` (R147). -/
  scsize   : BitVec 2
  /-- `chbase` (R148). -/
  chbase   : BitVec 4
  /-- `hofs` (R149). -/
  hofs     : Word
  /-- `vofs` (R149). -/
  vofs     : Word
deriving DecidableEq, Repr

/-- The PPU registers that are stored and have no modelled effect (R150, R152). -/
structure PpuStored where
  inidisp : Byte
  obsel   : Byte
  mosaic  : Byte
  m7sel   : Byte
  m7c     : Word
  m7d     : Word
  m7x     : Word
  m7y     : Word
  w12sel  : Byte
  w34sel  : Byte
  wobjsel : Byte
  wh0     : Byte
  wh1     : Byte
  wh2     : Byte
  wh3     : Byte
  wbglog  : Byte
  wobjlog : Byte
  ts      : Byte
  tmw     : Byte
  tsw     : Byte
  cgwsel  : Byte
  cgadsub : Byte
  coldata : Byte
  setini  : Byte
deriving DecidableEq, Repr

/-- The PPU (R140 to R153). The palette cache is a function of `cgram` and is computed (R142). -/
structure Ppu where
  /-- `vram`, 32768 words (R140). -/
  vram        : Cells Word
  /-- `cgram`, 256 words of 15 bits (R141). -/
  cgram       : Cells (BitVec 15)
  /-- `oam`, 544 bytes (R143). -/
  oam         : Cells Byte
  /-- `oamaddr` (R143). -/
  oamaddr     : BitVec 9
  /-- `oamprio` (R143). -/
  oamprio     : Bool
  /-- `oamptr`, 0 to 543 (R143). -/
  oamptr      : BitVec 10
  /-- `vaddr` (R144). -/
  vaddr       : BitVec 15
  /-- `vinc_high` (R144). -/
  vincHigh    : Bool
  /-- `vinc_step` (R144). -/
  vincStep    : BitVec 2
  /-- `vremap` (R144). -/
  vremap      : BitVec 2
  /-- `cgaddr` (R145). -/
  cgaddr      : Byte
  /-- `cglatch_full` (R145). -/
  cglatchFull : Bool
  /-- `cglow` (R145). -/
  cglow       : Byte
  /-- `mode` (R146). -/
  mode        : BitVec 3
  /-- `bg3prio` (R146). -/
  bg3prio     : Bool
  /-- The registers of BG1 to BG4, in order (R146 to R149). -/
  bg          : Quad BgLayer
  /-- `bgofs_latch` (R149). -/
  bgofsLatch  : Byte
  /-- `m7a` (R150). -/
  m7a         : Word
  /-- `m7b` (R150). -/
  m7b         : Word
  /-- `m7latch` (R150). -/
  m7latch     : Byte
  /-- `tm` (R151). -/
  tm          : Byte
  /-- The stored-only registers (R150, R152). -/
  stored      : PpuStored
  /-- `fb[0]` by row; an unlisted row is blank (R153). -/
  fb0         : Cells (List Rgba)
  /-- `fb[1]` by row; an unlisted row is blank (R153). -/
  fb1         : Cells (List Rgba)
  /-- `wbuf` (R153). -/
  wbuf        : Bool
  /-- `line[0..255]` (R153). -/
  line        : List Byte
deriving DecidableEq, Repr

/-- The interrupt controller and the CPU I/O registers (R170 to R174). -/
structure IoRegs where
  /-- `nmi_en` (R170). -/
  nmiEn     : Bool
  /-- `virq_en` (R170). -/
  virqEn    : Bool
  /-- `hirq_en` (R170). -/
  hirqEn    : Bool
  /-- `autojoy` (R170). -/
  autojoy   : Bool
  /-- `rdnmi_flag` (R171). -/
  rdnmiFlag : Bool
  /-- `vblank` (R172). -/
  vblank    : Bool
  /-- `hblank` (R172). -/
  hblank    : Bool
  /-- `irq_line`, constantly 0 (R173; log 20). -/
  irqLine   : Bool
  /-- `wrio` (R174). -/
  wrio      : Byte
  /-- `htime` (R174). -/
  htime     : BitVec 9
  /-- `vtime` (R174). -/
  vtime     : BitVec 9
  /-- `memsel` (R174). -/
  memsel    : Byte
  /-- `joyser_out` (R174). -/
  joyserOut : Byte
deriving DecidableEq, Repr

/-- The scheduler (R180 to R183, R850). -/
structure Sched where
  /-- The master clock (R180). -/
  master        : Nat
  /-- The queue in ascending (ts, seq) (R181). -/
  queue         : List Event
  /-- `seq_next` (R850). -/
  seqNext       : Nat
  /-- The line counter, 0 to 261 (R182). -/
  vline         : Nat
  /-- `frame_complete` (R183). -/
  frameComplete : Bool
deriving DecidableEq, Repr

/-- The fatal kinds of R831, each with its info. All are safe: the machine stops as the spec says. -/
inductive Fatal where
  /-- A main-CPU opcode in `P_UNIMPL_OPS` (R635); info: PBR, PC of the opcode, opcode. Safe. -/
  | unimplementedOpcode (pbr : Byte) (pc : Word) (op : Byte)
  /-- An audio opcode in `P_UNIMPL_SPC_OPS` (R763); info: pc of the opcode, opcode. Safe. -/
  | unimplementedSpcOpcode (pc : Word) (op : Byte)
  /-- A main-CPU read of an unmapped address or of 0x2138 to 0x213F (R230, R896). Safe. -/
  | unmappedRead (a : Addr)
  /-- A main-CPU write to an unmapped address or to ROM (R225, R230). Safe. -/
  | unmappedWrite (a : Addr)
  /-- A visible line rendered in BG mode 2, 4, 5, 6 or 7 (R900); info: mode, line. Safe. -/
  | bgModeUnimplemented (mode : BitVec 3) (y : Nat)
  /-- A DMA byte count that is no multiple of the transfer unit (R942); info: channel, count, unit. Safe. -/
  | dmaCount (c n u : Nat)
  /-- A DMA A-bus address off the fast path, or WRAM with port 0x2180 (R944); info: channel, address. Safe. -/
  | dmaAbus (c : Nat) (a : Addr)
  /-- HDMAEN written nonzero (R950). Safe. -/
  | hdmaUnimplemented (v : Byte)
  /-- The sentinel event was popped (R857). Safe. -/
  | sentinelFired (ts : Nat)
  /-- A battery save file of the wrong size (R1060); info: file size, `P_SRAM_SIZE`. Raised by the host move `loadRom`. Safe. -/
  | loadSramSize (fileSize sramSize : Nat)
  /-- LoROMLarge without its map, or an empty ROM (R1060). Raised by the host move `loadRom`. Safe. -/
  | loadMapper (m : Mapper)
deriving DecidableEq, Repr

/-- The sticky set of unmodelled reasons, one Boolean per reason of R832. -/
structure Marks where
  hvIrq     : Bool
  vramRemap : Bool
  tileSize  : Bool
  obj       : Bool
  mode0Bg4  : Bool
  mode3Bg2  : Bool
deriving DecidableEq, Repr

/-- The whole machine. -/
structure State where
  /-- The parameters of R11 and the cartridge (R190; log 4). -/
  cfg       : Config
  /-- The main CPU. -/
  cpu       : Cpu
  /-- The audio subsystem. -/
  apu       : Apu
  /-- The PPU. -/
  ppu       : Ppu
  /-- DMA channel bytes: byte k of channel c at key 16c + k (R160, R951). -/
  dma       : Cells Byte
  /-- `hdmaen` (R161). -/
  hdmaen    : Byte
  /-- The math engine (R162). -/
  math      : MathUnit
  /-- The interrupt controller and CPU I/O registers. -/
  io        : IoRegs
  /-- The scheduler. -/
  sched     : Sched
  /-- `wram`, 131072 bytes (R191). -/
  wram      : Cells Byte
  /-- `wmadd`, the WRAM port address (R191). -/
  wmadd     : BitVec 17
  /-- `sram`, `P_SRAM_SIZE` bytes (R190). -/
  sram      : Cells Byte
  /-- `fatal` (R195, R830). -/
  fatal     : Option Fatal
  /-- `unmodelled` (R195, R832). -/
  marks     : Marks
  /-- The model's own counter that selects the next free value of a main-side `draw()` (log 8). -/
  draws     : Nat
  /-- The model's own record that `reset()` has been called since power-on (R1065; log 12). -/
  resetDone : Bool
deriving DecidableEq, Repr

/-- Why a step stops with a fault: the core's fatal state (R830). -/
inductive Fault where
  /-- Raised by the rules of R831 through `raise`; `final` is the final state, with `fatal` set and the partial effects
  of the failing instruction kept (R830; log 9). Safe: the spec's own outcome. -/
  | fatal (why : Fatal) (final : State)
deriving DecidableEq, Repr

/-- Why a step has no meaning. -/
inductive Refusal where
  /-- An instruction that has no meaning in this model yet. Safe. -/
  | notModelled (mnemonic : String)
  /-- Raised by `step` before the first `reset()`: "a model refuses it" (R1065; log 12). Safe. -/
  | stepBeforeReset
  /-- Raised by `processEvents` when due events never run out, which only parameters under which time does not advance
  (a line of zero ticks) can cause (log 18). Safe. -/
  | eventLoopEndless
  /-- Raised by `catchUp` when the audio CPU's loop does not reach its target, which only a cost parameter under which audio
  instructions take no cycles can cause (log 18). Safe. -/
  | catchUpEndless
  /-- Raised by `runFrame` when its bound on steps runs out, which only parameters under which an instruction takes no time can
  cause (log 21). Safe. -/
  | frameEndless
  /-- Raised by `step` on an instruction whose bytes do not decode; unreachable, since all 256 opcodes are defined (R307). Safe. -/
  | undecodable
deriving DecidableEq, Repr

/-- The blank colour (R911). -/
def Rgba.blank : Rgba := { r := 0, g := 0, b := 0, a := 0xFF }

/-- A timer at reset (R132, R133). -/
def Timer.reset : Timer := { en := false, target := 0, out := 0, acc := 0, last := 0 }

/-- The audio subsystem as it is constructed at power-on and at every reset, at master clock `base` (R120 to R135, R1050). -/
def Apu.reset (init : PInit) (base : Nat) : Apu :=
  { a := 0, x := 0, y := 0, sp := 0, pc := 0xFFC0, psw := 0
    acycles := 0, abase := base, halted := false
    aram := init.aram, iplOn := true
    timer0 := Timer.reset, timer1 := Timer.reset, timer2 := Timer.reset
    pin := ⟨0, 0, 0, 0⟩, pout := ⟨0, 0, 0, 0⟩
    dspAddr := 0, dspReg := [], aux0 := 0, aux1 := 0, test := 0, draws := 0 }

/-- A background's registers at power-on (R146 to R149). -/
def BgLayer.reset : BgLayer := { tilesize := false, scbase := 0, scsize := 0, chbase := 0, hofs := 0, vofs := 0 }

/-- The PPU at power-on (R140 to R153). -/
def Ppu.reset (init : PInit) : Ppu :=
  { vram := init.vram, cgram := init.cgram, oam := init.oam
    oamaddr := 0, oamprio := false, oamptr := 0
    vaddr := 0, vincHigh := false, vincStep := 0, vremap := 0
    cgaddr := 0, cglatchFull := false, cglow := 0
    mode := 0, bg3prio := false
    bg := ⟨BgLayer.reset, BgLayer.reset, BgLayer.reset, BgLayer.reset⟩
    bgofsLatch := 0, m7a := 0, m7b := 0, m7latch := 0, tm := 0
    stored :=
      { inidisp := 0, obsel := 0, mosaic := 0, m7sel := 0, m7c := 0, m7d := 0, m7x := 0, m7y := 0
        w12sel := 0, w34sel := 0, wobjsel := 0, wh0 := 0, wh1 := 0, wh2 := 0, wh3 := 0, wbglog := 0, wobjlog := 0
        ts := 0, tmw := 0, tsw := 0, cgwsel := 0, cgadsub := 0, coldata := 0, setini := 0 }
    fb0 := [], fb1 := [], wbuf := false, line := List.replicate 256 0 }

/-- The interrupt controller and CPU I/O registers at power-on (R170 to R174). -/
def IoRegs.reset : IoRegs :=
  { nmiEn := false, virqEn := false, hirqEn := false, autojoy := false
    rdnmiFlag := false, vblank := false, hblank := false, irqLine := false
    wrio := 0, htime := 0, vtime := 0, memsel := 0, joyserOut := 0 }

/-- The scheduler at power-on (R180 to R183; log 22). -/
def Sched.reset (cfg : Config) : Sched :=
  { master := 0
    queue := startQueue cfg.hblankMaster
    seqNext := 2, vline := 0, frameComplete := false }

/-- The main CPU after `reset()`, with the program counter given (R1050). -/
def Cpu.reset (pc : Word) : Cpu :=
  { c := 0, x := 0, y := 0, s := 0x01FF, d := 0, pc := pc, pbr := 0, dbr := 0, p := 0x34, e := true
    cycles := 0, pending := 0, waiting := false, stopped := false }

/-- No unmodelled reason (R832). -/
def Marks.none : Marks :=
  { hvIrq := false, vramRemap := false, tileSize := false, obj := false, mode0Bg4 := false, mode3Bg2 := false }

/-- The machine right after power-on, `loadROM` of the default cartridge and the first `reset()` (R1051, R1050; log 1).
The reset vector of the all-zero cartridge is 0x0000. -/
def State.reset : State :=
  { cfg := Config.default
    cpu := Cpu.reset 0x0000
    apu := Apu.reset Config.default.init 0
    ppu := Ppu.reset Config.default.init
    dma := Config.default.init.dma
    hdmaen := 0
    math := Config.default.init.math
    io := IoRegs.reset
    sched := Sched.reset Config.default
    wram := Config.default.init.wram
    wmadd := 0
    sram := Config.default.init.sram
    fatal := none
    marks := Marks.none
    draws := 0
    resetDone := true }

end Sys2Proof.Machine
end

