-- ==== Sys2Proof/Machine/Monad.lean ====
section
/-!
DEFINITION. The form every operation of the main side has: it takes a state and answers a value and a state, or stops.
Beside it, the updates of the state's parts, raising a fatal condition, marking and drawing (R13).
-/

namespace Sys2Proof.Machine

/-! ## Updates of the state's parts -/

/-- Update the main CPU. -/
def State.onCpu (f : Cpu → Cpu) (s : State) : State := { s with cpu := f s.cpu }

/-- Update the audio subsystem. -/
def State.onApu (f : Apu → Apu) (s : State) : State := { s with apu := f s.apu }

/-- Update the PPU. -/
def State.onPpu (f : Ppu → Ppu) (s : State) : State := { s with ppu := f s.ppu }

/-- Update the math engine. -/
def State.onMath (f : MathUnit → MathUnit) (s : State) : State := { s with math := f s.math }

/-- Update the interrupt controller and CPU I/O registers. -/
def State.onIo (f : IoRegs → IoRegs) (s : State) : State := { s with io := f s.io }

/-- Update the scheduler. -/
def State.onSched (f : Sched → Sched) (s : State) : State := { s with sched := f s.sched }

/-- Update the unmodelled marks. -/
def State.onMarks (f : Marks → Marks) (s : State) : State := { s with marks := f s.marks }

/-- Update the DMA channel bytes. -/
def State.onDma (f : Cells Byte → Cells Byte) (s : State) : State := { s with dma := f s.dma }

/-- Update work RAM. -/
def State.onWram (f : Cells Byte → Cells Byte) (s : State) : State := { s with wram := f s.wram }

/-- Update cartridge RAM. -/
def State.onSram (f : Cells Byte → Cells Byte) (s : State) : State := { s with sram := f s.sram }

/-- Set the WRAM port address. -/
def State.setWmadd (v : BitVec 17) (s : State) : State := { s with wmadd := v }

/-- Set HDMAEN. -/
def State.setHdmaen (v : Byte) (s : State) : State := { s with hdmaen := v }

/-- Set the fatal state. -/
def State.setFatal (f : Fatal) (s : State) : State := { s with fatal := some f }

/-- Advance the draw counter. -/
def State.bumpDraws (s : State) : State := { s with draws := s.draws + 1 }

/-! ## Four like things -/

/-- Element `i` (0 to 3). -/
def Quad.get {α : Type} (q : Quad α) : Nat → α
  | 0 => q.q0
  | 1 => q.q1
  | 2 => q.q2
  | _ => q.q3

/-- Element `i` (0 to 3) updated. -/
def Quad.on {α : Type} (q : Quad α) (i : Nat) (f : α → α) : Quad α :=
  match i with
  | 0 => { q with q0 := f q.q0 }
  | 1 => { q with q1 := f q.q1 }
  | 2 => { q with q2 := f q.q2 }
  | _ => { q with q3 := f q.q3 }

/-! ## The monad -/

/-- How an operation stops: with a fatal condition (R830) or with a refusal. -/
inductive Stop where
  | fatal (why : Fatal)
  | refuse (why : Refusal)
deriving DecidableEq, Repr

/-- An operation of the main side: from a state, a value and a state, or a stop with the state reached so far (R830). -/
abbrev M := EStateM Stop State

/-- `raise Fatal(kind, info)` (R13, R830). -/
def raise {α : Type} (f : Fatal) : M α := throw (.fatal f)

/-- `draw()`: the next free value of the host's input (R13, R239; log 8). -/
def draw : M Byte := do
  let s ← get
  set s.bumpDraws
  return Config.hostInput s.draws

/-- A result of an operation as the outcome of a step: a fatal condition is the machine's final state (R830; log 9). -/
def outcomeOf : EStateM.Result Stop State Unit → Host.Outcome State Fault Refusal
  | .ok _ s => .next s
  | .error (.fatal f) s => .fault (.fatal f (s.setFatal f))
  | .error (.refuse r) _ => .refused r

end Sys2Proof.Machine
end

