-- ==== Sys2Proof/Machine/AudioBus.lean ====
section
/-!
DEFINITION. The audio CPU's bus: address map, I/O registers 0xF0 to 0xFF, timers (R980 to R989), and the monad of the audio side.
No audio access stops (R980).
-/

namespace Sys2Proof.Machine

/-- An operation of the audio side: it reads the parameters and updates the audio subsystem, and never stops. -/
abbrev A := ReaderT Config (StateM Apu)

/-- `draw()` on the audio side (R986; log 8). -/
def adraw : A Byte := do
  let u ← get
  set { u with draws := u.draws + 1 }
  return Config.audioInput u.draws

/-! ## Timers -/

/-- `P_TIMER_PRESCALE[t]` (R11). -/
def prescale (cfg : Config) : Nat → Nat
  | 0 => cfg.prescale0
  | 1 => cfg.prescale1
  | _ => cfg.prescale2

/-- The divisor a target register stands for: 0 means 256 (R987). -/
def targetValue (target : Byte) : Nat := if target = 0 then 256 else target.toNat

/-- `TimerUpdate(t, now)` (R987). -/
def Timer.update (pre now : Nat) (t : Timer) : Timer :=
  if t.en then
    let acc := t.acc + (now - t.last)
    let d := pre * targetValue t.target
    { t with out := t.out + BitVec.ofNat 4 (acc / d), acc := acc % d, last := now }
  else { t with last := now }

/-- A timer's part of a write to CONTROL: enabling clears the counter, disabling keeps it (R988). -/
def Timer.control (on : Bool) (t : Timer) : Timer :=
  if on && !t.en then { t with out := 0, acc := 0, en := on } else { t with en := on }

/-- Timer `t` (0 to 2). -/
def Apu.timer (u : Apu) : Nat → Timer
  | 0 => u.timer0
  | 1 => u.timer1
  | _ => u.timer2

/-- Timer `t` (0 to 2) updated. -/
def Apu.onTimer (t : Nat) (f : Timer → Timer) (u : Apu) : Apu :=
  match t with
  | 0 => { u with timer0 := f u.timer0 }
  | 1 => { u with timer1 := f u.timer1 }
  | _ => { u with timer2 := f u.timer2 }

/-- Timer `t` brought up to date; "now" is the start time of the instruction, to which `acycles` stands until it ends (R650, R986). -/
def timerUpdate (t : Nat) : A Unit := do
  let cfg ← read
  modify fun u => u.onTimer t (·.update (prescale cfg t) u.acycles)

/-- A read of T(t)OUT: update, return the counter, clear it (R986). -/
def timerRead (t : Nat) : A Byte := do
  timerUpdate t
  let u ← get
  set (u.onTimer t fun x => { x with out := 0 })
  return (u.timer t).out.setWidth 8

/-! ## I/O registers -/

/-- CONTROL (0xF1) write (R988). -/
def controlWrite (v : Byte) : A Unit := do
  timerUpdate 0
  timerUpdate 1
  timerUpdate 2
  modify fun u =>
    { u with
      timer0 := u.timer0.control (v.getLsbD 0)
      timer1 := u.timer1.control (v.getLsbD 1)
      timer2 := u.timer2.control (v.getLsbD 2)
      pin := { q0 := if v.getLsbD 4 then 0 else u.pin.q0
               q1 := if v.getLsbD 4 then 0 else u.pin.q1
               q2 := if v.getLsbD 5 then 0 else u.pin.q2
               q3 := if v.getLsbD 5 then 0 else u.pin.q3 }
      iplOn := v.getLsbD 7 }

/-- `IORegRead(a)`, 0xF0 ≤ a ≤ 0xFF (R986). -/
def ioRegRead (a : Word) : A Byte :=
  match a.toNat with
  | 0xF2 => return (← get).dspAddr
  | 0xF4 => return (← get).pin.q0
  | 0xF5 => return (← get).pin.q1
  | 0xF6 => return (← get).pin.q2
  | 0xF7 => return (← get).pin.q3
  | 0xF8 => return (← get).aux0
  | 0xF9 => return (← get).aux1
  | 0xFD => timerRead 0
  | 0xFE => timerRead 1
  | 0xFF => timerRead 2
  | _ => adraw

/-- Timer `t`'s target register written: the timer is brought up to date first (R986). -/
def targetWrite (t : Nat) (v : Byte) : A Unit := do
  timerUpdate t
  modify (·.onTimer t fun x => { x with target := v })

/-- `IORegWrite(a, v)`, 0xF0 ≤ a ≤ 0xFF (R986, R995). -/
def ioRegWrite (a : Word) (v : Byte) : A Unit :=
  match a.toNat with
  | 0xF0 => modify fun u => { u with test := v }
  | 0xF1 => controlWrite v
  | 0xF2 => modify fun u => { u with dspAddr := v }
  | 0xF3 => modify fun u =>
      if u.dspAddr.toNat < 0x80 then { u with dspReg := Cells.write 0 u.dspAddr.toNat v u.dspReg } else u
  | 0xF4 => modify fun u => { u with pout := { u.pout with q0 := v } }
  | 0xF5 => modify fun u => { u with pout := { u.pout with q1 := v } }
  | 0xF6 => modify fun u => { u with pout := { u.pout with q2 := v } }
  | 0xF7 => modify fun u => { u with pout := { u.pout with q3 := v } }
  | 0xF8 => modify fun u => { u with aux0 := v }
  | 0xF9 => modify fun u => { u with aux1 := v }
  | 0xFA => targetWrite 0 v
  | 0xFB => targetWrite 1 v
  | 0xFC => targetWrite 2 v
  | _ => pure ()

/-! ## The bus -/

/-- True of the I/O register addresses. -/
def isIoReg (a : Word) : Bool := decide (0xF0 ≤ a.toNat) && decide (a.toNat ≤ 0xFF)

/-- `ARead8(a)` (R985). -/
def aread (a : Word) : A Byte :=
  if isIoReg a then ioRegRead a
  else do
    let u ← get
    return if u.iplOn && decide (0xFFC0 ≤ a.toNat) then iplByte (a.toNat - 0xFFC0) else Cells.read 0 a.toNat u.aram

/-- `AWrite8(a, v)`: the register's effect, and always the RAM byte (R985). -/
def awrite (a : Word) (v : Byte) : A Unit := do
  if isIoReg a then ioRegWrite a v
  modify fun u => { u with aram := Cells.write 0 a.toNat v u.aram }

/-- `AFetch()` (R650). -/
def afetch : A Byte := do
  let u ← get
  set { u with pc := u.pc + 1 }
  aread u.pc

end Sys2Proof.Machine
end

