-- ==== Sys2Proof/Machine/AudioFlags.lean ====
section
/-!
DEFINITION. The audio CPU's status word and flag helpers (R123, R653).
-/

namespace Sys2Proof.Machine

/-- Bit places in `psw` (R123). -/
abbrev aN : Nat := 7
/-- Overflow. -/
abbrev aV : Nat := 6
/-- Direct page select. -/
abbrev aP : Nat := 5
/-- Break. -/
abbrev aB : Nat := 4
/-- Half-carry. -/
abbrev aH : Nat := 3
/-- Interrupt enable. -/
abbrev aI : Nat := 2
/-- Zero. -/
abbrev aZ : Nat := 1
/-- Carry. -/
abbrev aC : Nat := 0

/-- A flag of `psw`. -/
def aflag (i : Nat) : A Bool := return (← get).psw.getLsbD i

/-- Set a flag of `psw`. -/
def setAflag (i : Nat) (b : Bool) : A Unit := modify fun u => { u with psw := putBit i b u.psw }

/-- `setnz(v)` (R653). -/
def setnz (v : Byte) : A Unit := do
  setAflag aN (v.getLsbD 7)
  setAflag aZ (decide (v = 0))

/-- `setnz16(v)` (R653). -/
def setnz16 (v : Word) : A Unit := do
  setAflag aN (v.getLsbD 15)
  setAflag aZ (decide (v = 0))

/-- The natural `l + r + c` of `Adc` (R653). -/
def aSum (l r : Byte) (c : Bool) : Nat := l.toNat + r.toNat + c.toNat

/-- `Adc(l, r)` (R653): the result, with n, v, h, z and c set. -/
def aAdc8 (l r : Byte) : A Byte := do
  let c ← aflag aC
  let t := aSum l r c
  let t8 := BitVec.ofNat 8 t
  setAflag aV ((~~~(l ^^^ r) &&& (l ^^^ t8)).getLsbD 7)
  setAflag aH ((l ^^^ r ^^^ t8).getLsbD 4)
  setAflag aC (decide (t > 0xFF))
  setnz t8
  return t8

/-- `Sbc(l, r)`: `Adc` of the complement; carry 1 means no borrow (R653). -/
def aSbc8 (l r : Byte) : A Byte := aAdc8 l (~~~r)

/-- `Cmp(l, r)` (R653): v and h unchanged. -/
def aCmp8 (l r : Byte) : A Unit := do
  setAflag aC (decide (r.toNat ≤ l.toNat))
  setnz (l - r)

end Sys2Proof.Machine
end

