-- ==== Sys2Proof/Syntax.lean ====
section
/-!
DEFINITION. The instructions of both CPUs as syntax.
A constructor is one mnemonic in one operand shape; the operand forms of R302 and R311 are the arguments' own constructors.
So the 512 rows of the opcode table are the pairs (constructor, form) (log 16).
Constructors without the letter `a` in front are the main CPU's (65816); those with it are the audio CPU's (SPC700).
-/

namespace Sys2Proof

/-! ## Operands of the main CPU (R301, R302) -/

/-- An immediate of the accumulator's or the index registers' width (forms `immM`, `immX`). -/
inductive Imm where
  | b8  (v : Byte)
  | b16 (v : Word)
deriving DecidableEq, Repr

/-- A memory operand: the data addressing modes of R406 to R420, one constructor per form. -/
inductive AddrMode where
  | dp      (o : Byte)
  | dpx     (o : Byte)
  | dpy     (o : Byte)
  | dpind   (o : Byte)
  | dpxind  (o : Byte)
  | dpindy  (o : Byte)
  | dpindl  (o : Byte)
  | dpindly (o : Byte)
  | sr      (o : Byte)
  | sriy    (o : Byte)
  | abs     (a : Word)
  | absx    (a : Word)
  | absy    (a : Word)
  | long    (a : Addr)
  | longx   (a : Addr)
deriving DecidableEq, Repr

/-- A source operand: an immediate (R405) or a memory operand. -/
inductive Src where
  | imm (v : Imm)
  | mem (m : AddrMode)
deriving DecidableEq, Repr

/-- The operand of a read-modify-write instruction: the accumulator (R421) or a memory operand. -/
inductive Rmw where
  | acc
  | mem (m : AddrMode)
deriving DecidableEq, Repr

/-! ## Operands of the audio CPU (R311) -/

/-- A memory operand of the audio CPU, one constructor per form. -/
inductive AMode where
  | d    (o : Byte)
  | dx   (o : Byte)
  | dy   (o : Byte)
  | idx  (o : Byte)
  | idy  (o : Byte)
  | abs  (a : Word)
  | absx (a : Word)
  | absy (a : Word)
  | ix
deriving DecidableEq, Repr

/-- A source operand of the audio CPU: `#i` or memory. -/
inductive ASrc where
  | imm (i : Byte)
  | mem (m : AMode)
deriving DecidableEq, Repr

/-- The operand pair of an audio ALU operation: `A,src`; `dd,ds` (encoded source first); `d,#i` (encoded immediate first); `(X),(Y)`. -/
inductive AAlu where
  | acc  (s : ASrc)
  | dd   (src dst : Byte)
  | dImm (i d : Byte)
  | xy
deriving DecidableEq, Repr

/-- The operand of an audio read-modify-write operation. -/
inductive ARmw where
  | a
  | x
  | y
  | mem (m : AMode)
deriving DecidableEq, Repr

/-- The registers PUSH and POP name. -/
inductive AStackReg where
  | a
  | x
  | y
  | psw
deriving DecidableEq, Repr

/-! ## The instructions -/

/-- Every instruction of the opcode table (R305, R313). -/
inductive Instr where
  -- main CPU: loads, stores (R450 to R456)
  | lda (src : Src)
  | ldx (src : Src)
  | ldy (src : Src)
  | sta (m : AddrMode)
  | stx (m : AddrMode)
  | sty (m : AddrMode)
  | stz (m : AddrMode)
  -- transfers and exchanges (R457 to R469)
  | tax
  | tay
  | txa
  | tya
  | txy
  | tyx
  | tsx
  | txs
  | tcs
  | tsc
  | tcd
  | tdc
  | xba
  -- block moves (R470, R471)
  | mvn (dst src : Byte)
  | mvp (dst src : Byte)
  -- pushes and pulls (R502 to R517)
  | pha
  | phx
  | phy
  | php
  | phb
  | phk
  | phd
  | pla
  | plx
  | ply
  | plp
  | plb
  | pld
  | pea (v : Word)
  | pei (o : Byte)
  | per (rel : Word)
  -- arithmetic and logic (R530 to R554)
  | adc (src : Src)
  | sbc (src : Src)
  | cmp (src : Src)
  | cpx (src : Src)
  | cpy (src : Src)
  | and (src : Src)
  | ora (src : Src)
  | eor (src : Src)
  | bit (src : Src)
  | tsb (m : AddrMode)
  | trb (m : AddrMode)
  | inc (op : Rmw)
  | dec (op : Rmw)
  | inx
  | iny
  | dex
  | dey
  | asl (op : Rmw)
  | lsr (op : Rmw)
  | rol (op : Rmw)
  | ror (op : Rmw)
  -- branches, jumps, calls, returns (R581 to R603)
  | bpl (rel : Byte)
  | bmi (rel : Byte)
  | bvc (rel : Byte)
  | bvs (rel : Byte)
  | bcc (rel : Byte)
  | bcs (rel : Byte)
  | bne (rel : Byte)
  | beq (rel : Byte)
  | bra (rel : Byte)
  | brl (rel : Word)
  | jmp (a : Word)
  | jmpInd (a : Word)
  | jmpIndX (a : Word)
  | jml (a : Addr)
  | jmlInd (a : Word)
  | jsr (a : Word)
  | jsrIndX (a : Word)
  | jsl (a : Addr)
  | rts
  | rtl
  | rti
  | brk (sig : Byte)
  | cop (sig : Byte)
  -- flags and system (R621 to R634)
  | clc
  | sec
  | cli
  | sei
  | cld
  | sed
  | clv
  | rep (v : Byte)
  | sep (v : Byte)
  | xce
  | nop
  | wdm (v : Byte)
  | wai
  | stp
  -- audio CPU: moves (R654 to R658)
  | aMovA (src : ASrc)
  | aMovX (src : ASrc)
  | aMovY (src : ASrc)
  | aMovStA (m : AMode)
  | aMovStX (m : AMode)
  | aMovStY (m : AMode)
  | aMovXA
  | aMovAX
  | aMovYA
  | aMovAY
  | aMovXSp
  | aMovSpX
  | aMovDD (src dst : Byte)
  | aMovDI (i d : Byte)
  | aMovIncA
  | aMovAInc
  -- arithmetic and logic (R660 to R672)
  | aAdc (op : AAlu)
  | aSbc (op : AAlu)
  | aCmp (op : AAlu)
  | aCmpX (src : ASrc)
  | aCmpY (src : ASrc)
  | aAnd (op : AAlu)
  | aOr (op : AAlu)
  | aEor (op : AAlu)
  | aInc (op : ARmw)
  | aDec (op : ARmw)
  | aAsl (op : ARmw)
  | aLsr (op : ARmw)
  | aRol (op : ARmw)
  | aRor (op : ARmw)
  | aXcn
  -- 16-bit operations, multiply, divide, decimal adjust (R673 to R682)
  | aMovwLd (o : Byte)
  | aMovwSt (o : Byte)
  | aIncw (o : Byte)
  | aDecw (o : Byte)
  | aAddw (o : Byte)
  | aSubw (o : Byte)
  | aCmpw (o : Byte)
  | aMul
  | aDiv
  | aDaa
  | aDas
  -- branches (R721 to R733)
  | aBra (rel : Byte)
  | aBeq (rel : Byte)
  | aBne (rel : Byte)
  | aBcs (rel : Byte)
  | aBcc (rel : Byte)
  | aBvs (rel : Byte)
  | aBvc (rel : Byte)
  | aBmi (rel : Byte)
  | aBpl (rel : Byte)
  | aBbs (b : BitVec 3) (d rel : Byte)
  | aBbc (b : BitVec 3) (d rel : Byte)
  | aCbne (d rel : Byte)
  | aCbneX (d rel : Byte)
  | aDbnz (d rel : Byte)
  | aDbnzY (rel : Byte)
  -- jumps, calls, returns (R734 to R740)
  | aJmp (a : Word)
  | aJmpInd (a : Word)
  | aCall (a : Word)
  | aPcall (u : Byte)
  | aTcall (n : BitVec 4)
  | aBrk
  | aRet
  | aReti
  -- stack (R741, R742)
  | aPush (r : AStackReg)
  | aPop (r : AStackReg)
  -- bits (R743 to R751)
  | aSet1 (b : BitVec 3) (d : Byte)
  | aClr1 (b : BitVec 3) (d : Byte)
  | aTset1 (a : Word)
  | aTclr1 (a : Word)
  | aAnd1 (neg : Bool) (m : BitVec 13) (b : BitVec 3)
  | aOr1 (neg : Bool) (m : BitVec 13) (b : BitVec 3)
  | aEor1 (m : BitVec 13) (b : BitVec 3)
  | aNot1 (m : BitVec 13) (b : BitVec 3)
  | aMov1Ld (m : BitVec 13) (b : BitVec 3)
  | aMov1St (m : BitVec 13) (b : BitVec 3)
  -- flags and control (R752 to R762)
  | aClrc
  | aSetc
  | aNotc
  | aClrv
  | aClrp
  | aSetp
  | aEi
  | aDi
  | aNop
  | aSleep
  | aStop
deriving DecidableEq, Repr

end Sys2Proof
end

