-- ==== Sys2Proof/Machine/AudioOperands.lean ====
section
/-!
DEFINITION. The audio CPU's effective addresses and operand accesses, every form of R651, in the order of R652, and its stack.
-/

namespace Sys2Proof.Machine

/-- The direct page the flag p selects: 0x0000 or 0x0100 (R651). -/
def Apu.page (u : Apu) : Word := if u.psw.getLsbD aP then 0x0100 else 0x0000

/-- `page + o`, an address in the direct page (R651). -/
def dpAddr (o : Byte) : A Word := return (← get).page + zext o

/-- The 16-bit pointer at offset `o` of the direct page, its second byte wrapping inside the page (R651). -/
def dpPtr (o : Byte) : A Word := do
  let l ← aread (← dpAddr o)
  let h ← aread (← dpAddr (o + 1))
  return mkWord h l

/-- The address of a memory operand (R651). -/
def aaddr : AMode → A Word
  | .d o => dpAddr o
  | .dx o => do dpAddr (o + (← get).x)
  | .dy o => do dpAddr (o + (← get).y)
  | .idx o => do dpPtr (o + (← get).x)
  | .idy o => do
    let p ← dpPtr o
    return p + zext (← get).y
  | .abs a => return a
  | .absx a => return a + zext (← get).x
  | .absy a => return a + zext (← get).y
  | .ix => do dpAddr (← get).x

/-- The value of a source operand (R651). -/
def asrc : ASrc → A Byte
  | .imm i => return i
  | .mem m => do aread (← aaddr m)

/-- The word at offset `o` of the direct page, low byte read first, the high byte's address wrapping inside the page (R651, R652). -/
def wordRead (o : Byte) : A Word := dpPtr o

/-- The word at offset `o` of the direct page written, low byte first (R652). -/
def wordWrite (o : Byte) (v : Word) : A Unit := do
  awrite (← dpAddr o) (lo v)
  awrite (← dpAddr (o + 1)) (hi v)

/-- The pair `ya`, y high (R120). -/
def Apu.ya (u : Apu) : Word := mkWord u.y u.a

/-- The operands of an ALU operation: left, right, and where the result goes (`none` is the accumulator) (R659, R652). -/
def aluOperands : AAlu → A (Byte × Byte × Option Word)
  | .acc s => do
    let r ← asrc s
    return ((← get).a, r, none)
  | .dd src dst => do
    let r ← aread (← dpAddr src)
    let t ← dpAddr dst
    let l ← aread t
    return (l, r, some t)
  | .dImm i d => do
    let t ← dpAddr d
    let l ← aread t
    return (l, i, some t)
  | .xy => do
    let u ← get
    let r ← aread (u.page + zext u.y)
    let t := u.page + zext u.x
    let l ← aread t
    return (l, r, some t)

/-- The result of an ALU operation stored where it goes (R659). -/
def aluStore (dst : Option Word) (v : Byte) : A Unit :=
  match dst with
  | none => modify fun u => { u with a := v }
  | some t => awrite t v

/-- A read-modify-write operation: read once, change, write the same place once (R652). -/
def armw (f : Byte → A Byte) : ARmw → A Unit
  | .a => do
    let v ← f (← get).a
    modify fun u => { u with a := v }
  | .x => do
    let v ← f (← get).x
    modify fun u => { u with x := v }
  | .y => do
    let v ← f (← get).y
    modify fun u => { u with y := v }
  | .mem m => do
    let t ← aaddr m
    let v ← f (← aread t)
    awrite t v

/-! ## The stack: page 1 whatever p is (47_audio_isa_control.md, R121) -/

/-- `APush(v)`. -/
def apush (v : Byte) : A Unit := do
  let u ← get
  awrite (0x0100 + zext u.sp) v
  modify fun u => { u with sp := u.sp - 1 }

/-- `APull()`. -/
def apull : A Byte := do
  modify fun u => { u with sp := u.sp + 1 }
  aread (0x0100 + zext (← get).sp)

/-- `APushPC(v)`: high byte, then low byte. -/
def apushPC (v : Word) : A Unit := do
  apush (hi v)
  apush (lo v)

/-- `APullPC()`: low byte, then high byte. -/
def apullPC : A Word := do
  let l ← apull
  let h ← apull
  return mkWord h l

/-- The word at `t`, low byte first, the second address wrapping at 0xFFFF. -/
def aword (t : Word) : A Word := do
  let l ← aread t
  let h ← aread (t + 1)
  return mkWord h l

/-- A branch: to `pc_next + sext_8(r)` if the condition holds; the value says whether it is taken (R720). -/
def abranch (cond : Bool) (r : Byte) : A Bool := do
  if cond then modify fun u => { u with pc := u.pc + sext r }
  return cond

end Sys2Proof.Machine
end

