-- ==== Sys2Proof/Machine/AudioControl.lean ====
section
/-!
DEFINITION. What each audio control, stack, bit and flag instruction does after its bytes are fetched (47_audio_isa_control.md, R721 to R762).
Each answers whether a branch was taken, which the cost depends on (R1071).
-/

namespace Sys2Proof.Machine

/-! ## Branches -/

/-- BRA (R721). -/
def audioBra (r : Byte) : A Bool := abranch true r

/-- BEQ (R722). -/
def audioBeq (r : Byte) : A Bool := do abranch (← aflag aZ) r

/-- BNE (R723). -/
def audioBne (r : Byte) : A Bool := do abranch (!(← aflag aZ)) r

/-- BCS (R724). -/
def audioBcs (r : Byte) : A Bool := do abranch (← aflag aC) r

/-- BCC (R725). -/
def audioBcc (r : Byte) : A Bool := do abranch (!(← aflag aC)) r

/-- BVS (R726). -/
def audioBvs (r : Byte) : A Bool := do abranch (← aflag aV) r

/-- BVC (R727). -/
def audioBvc (r : Byte) : A Bool := do abranch (!(← aflag aV)) r

/-- BMI (R728). -/
def audioBmi (r : Byte) : A Bool := do abranch (← aflag aN) r

/-- BPL (R729). -/
def audioBpl (r : Byte) : A Bool := do abranch (!(← aflag aN)) r

/-- BBS d.b,r (R730). -/
def audioBbs (b : BitVec 3) (d r : Byte) : A Bool := do
  let v ← aread (← dpAddr d)
  abranch (v.getLsbD b.toNat) r

/-- BBC d.b,r (R731). -/
def audioBbc (b : BitVec 3) (d r : Byte) : A Bool := do
  let v ← aread (← dpAddr d)
  abranch (!v.getLsbD b.toNat) r

/-- CBNE d,r (R732). -/
def audioCbne (d r : Byte) : A Bool := do
  let v ← aread (← aaddr (.d d))
  abranch (decide ((← get).a ≠ v)) r

/-- CBNE d+X,r (R732). -/
def audioCbneX (d r : Byte) : A Bool := do
  let v ← aread (← aaddr (.dx d))
  abranch (decide ((← get).a ≠ v)) r

/-- DBNZ d,r (R733). -/
def audioDbnz (d r : Byte) : A Bool := do
  let t ← dpAddr d
  let v := (← aread t) - 1
  awrite t v
  abranch (decide (v ≠ 0)) r

/-- DBNZ Y,r (R733). -/
def audioDbnzY (r : Byte) : A Bool := do
  modify fun u => { u with y := u.y - 1 }
  abranch (decide ((← get).y ≠ 0)) r

/-! ## Jumps, calls and returns -/

/-- `pc <- v`. -/
def setApc (v : Word) : A Unit := modify fun u => { u with pc := v }

/-- JMP !a (R734). -/
def audioJmp (a : Word) : A Bool := do
  setApc a
  return false

/-- JMP [!a+X] (R734). -/
def audioJmpInd (a : Word) : A Bool := do
  setApc (← aword (a + zext (← get).x))
  return false

/-- CALL !a (R735). -/
def audioCall (a : Word) : A Bool := do
  apushPC (← get).pc
  setApc a
  return false

/-- PCALL u (R736). -/
def audioPcall (u : Byte) : A Bool := do
  apushPC (← get).pc
  setApc (mkWord 0xFF u)
  return false

/-- TCALL n (R737). -/
def audioTcall (n : BitVec 4) : A Bool := do
  apushPC (← get).pc
  setApc (← aword (0xFFDE - 2 * n.setWidth 16))
  return false

/-- BRK (R738). -/
def audioBrk : A Bool := do
  apushPC (← get).pc
  apush (← get).psw
  setAflag aB true
  setAflag aI false
  setApc (← aword 0xFFDE)
  return false

/-- RET (R739). -/
def audioRet : A Bool := do
  setApc (← apullPC)
  return false

/-- RETI (R740). -/
def audioReti : A Bool := do
  let v ← apull
  modify fun u => { u with psw := v }
  setApc (← apullPC)
  return false

/-! ## Stack -/

/-- PUSH (R741). -/
def audioPush (r : AStackReg) : A Bool := do
  let u ← get
  apush (match r with | .a => u.a | .x => u.x | .y => u.y | .psw => u.psw)
  return false

/-- POP (R742). -/
def audioPop (r : AStackReg) : A Bool := do
  let v ← apull
  modify fun u => match r with
    | .a => { u with a := v }
    | .x => { u with x := v }
    | .y => { u with y := v }
    | .psw => { u with psw := v }
  return false

/-! ## Bit operations -/

/-- SET1 d.b (R743). -/
def audioSet1 (b : BitVec 3) (d : Byte) : A Bool := do
  let t ← dpAddr d
  awrite t (putBit b.toNat true (← aread t))
  return false

/-- CLR1 d.b (R744). -/
def audioClr1 (b : BitVec 3) (d : Byte) : A Bool := do
  let t ← dpAddr d
  awrite t (putBit b.toNat false (← aread t))
  return false

/-- TSET1 !a (R745). -/
def audioTset1 (t : Word) : A Bool := do
  let v ← aread t
  let a := (← get).a
  setnz (a - v)
  awrite t (v ||| a)
  return false

/-- TCLR1 !a (R746). -/
def audioTclr1 (t : Word) : A Bool := do
  let v ← aread t
  let a := (← get).a
  setnz (a - v)
  awrite t (v &&& ~~~a)
  return false

/-- The bit an `m.b` operand names (R651, R747). -/
def memBit (m : BitVec 13) (b : BitVec 3) : A Bool := return (← aread (m.setWidth 16)).getLsbD b.toNat

/-- AND1 C,m.b and AND1 C,/m.b (R747). -/
def audioAnd1 (neg : Bool) (m : BitVec 13) (b : BitVec 3) : A Bool := do
  let v ← memBit m b
  setAflag aC ((← aflag aC) && (v ^^ neg))
  return false

/-- OR1 C,m.b and OR1 C,/m.b (R748). -/
def audioOr1 (neg : Bool) (m : BitVec 13) (b : BitVec 3) : A Bool := do
  let v ← memBit m b
  setAflag aC ((← aflag aC) || (v ^^ neg))
  return false

/-- EOR1 C,m.b (R749). -/
def audioEor1 (m : BitVec 13) (b : BitVec 3) : A Bool := do
  let v ← memBit m b
  setAflag aC ((← aflag aC) ^^ v)
  return false

/-- NOT1 m.b (R750). -/
def audioNot1 (m : BitVec 13) (b : BitVec 3) : A Bool := do
  let v ← aread (m.setWidth 16)
  awrite (m.setWidth 16) (v ^^^ bitAt b.toNat true)
  return false

/-- MOV1 C,m.b (R751). -/
def audioMov1Ld (m : BitVec 13) (b : BitVec 3) : A Bool := do
  let v ← memBit m b
  setAflag aC v
  return false

/-- MOV1 m.b,C (R751). -/
def audioMov1St (m : BitVec 13) (b : BitVec 3) : A Bool := do
  let v ← aread (m.setWidth 16)
  awrite (m.setWidth 16) (putBit b.toNat (← aflag aC) v)
  return false

/-! ## Flags, no-operation, halt -/

/-- CLRC (R752). -/
def audioClrc : A Bool := do
  setAflag aC false
  return false

/-- SETC (R753). -/
def audioSetc : A Bool := do
  setAflag aC true
  return false

/-- NOTC (R754). -/
def audioNotc : A Bool := do
  setAflag aC (!(← aflag aC))
  return false

/-- CLRV clears v and h (R755). -/
def audioClrv : A Bool := do
  setAflag aV false
  setAflag aH false
  return false

/-- CLRP (R756). -/
def audioClrp : A Bool := do
  setAflag aP false
  return false

/-- SETP (R757). -/
def audioSetp : A Bool := do
  setAflag aP true
  return false

/-- EI (R758). -/
def audioEi : A Bool := do
  setAflag aI true
  return false

/-- DI (R759). -/
def audioDi : A Bool := do
  setAflag aI false
  return false

/-- NOP (R760). -/
def audioNop : A Bool := return false

/-- SLEEP (R761). -/
def audioSleep : A Bool := do
  modify fun u => { u with halted := true }
  return false

/-- STOP, exactly as SLEEP (R762). -/
def audioStop : A Bool := do
  modify fun u => { u with halted := true }
  return false

end Sys2Proof.Machine
end

