-- ==== Sys2Proof/Machine/AudioData.lean ====
section
/-!
DEFINITION. What each audio data instruction does after its bytes are fetched (46_audio_isa_data.md, R654 to R682).
Each answers whether a branch was taken, which the cost depends on (R1071); here it never is.
-/

namespace Sys2Proof.Machine

/-! ## Moves -/

/-- MOV A,src (R654). -/
def audioMovA (src : ASrc) : A Bool := do
  let v ← asrc src
  modify fun u => { u with a := v }
  setnz v
  return false

/-- MOV X,src (R654). -/
def audioMovX (src : ASrc) : A Bool := do
  let v ← asrc src
  modify fun u => { u with x := v }
  setnz v
  return false

/-- MOV Y,src (R654). -/
def audioMovY (src : ASrc) : A Bool := do
  let v ← asrc src
  modify fun u => { u with y := v }
  setnz v
  return false

/-- MOV m,A (R655). -/
def audioMovStA (m : AMode) : A Bool := do
  let t ← aaddr m
  awrite t (← get).a
  return false

/-- MOV m,X (R655). -/
def audioMovStX (m : AMode) : A Bool := do
  let t ← aaddr m
  awrite t (← get).x
  return false

/-- MOV m,Y (R655). -/
def audioMovStY (m : AMode) : A Bool := do
  let t ← aaddr m
  awrite t (← get).y
  return false

/-- MOV X,A (R656). -/
def audioMovXA : A Bool := do
  modify fun u => { u with x := u.a }
  setnz (← get).x
  return false

/-- MOV A,X (R656). -/
def audioMovAX : A Bool := do
  modify fun u => { u with a := u.x }
  setnz (← get).a
  return false

/-- MOV Y,A (R656). -/
def audioMovYA : A Bool := do
  modify fun u => { u with y := u.a }
  setnz (← get).y
  return false

/-- MOV A,Y (R656). -/
def audioMovAY : A Bool := do
  modify fun u => { u with a := u.y }
  setnz (← get).a
  return false

/-- MOV X,SP (R656). -/
def audioMovXSp : A Bool := do
  modify fun u => { u with x := u.sp }
  setnz (← get).x
  return false

/-- MOV SP,X sets no flag (R656). -/
def audioMovSpX : A Bool := do
  modify fun u => { u with sp := u.x }
  return false

/-- MOV dd,ds (R657). -/
def audioMovDD (src dst : Byte) : A Bool := do
  let v ← aread (← dpAddr src)
  awrite (← dpAddr dst) v
  return false

/-- MOV d,#i (R657). -/
def audioMovDI (i d : Byte) : A Bool := do
  awrite (← dpAddr d) i
  return false

/-- MOV (X)+,A sets no flag (R658). -/
def audioMovIncA : A Bool := do
  let u ← get
  awrite (u.page + zext u.x) u.a
  modify fun u => { u with x := u.x + 1 }
  return false

/-- MOV A,(X)+ (R658). -/
def audioMovAInc : A Bool := do
  let u ← get
  let v ← aread (u.page + zext u.x)
  modify fun u => { u with a := v, x := u.x + 1 }
  setnz v
  return false

/-! ## Eight-bit arithmetic and logic -/

/-- ADC (R660). -/
def audioAdc (op : AAlu) : A Bool := do
  let (l, r, dst) ← aluOperands op
  aluStore dst (← aAdc8 l r)
  return false

/-- SBC (R661). -/
def audioSbc (op : AAlu) : A Bool := do
  let (l, r, dst) ← aluOperands op
  aluStore dst (← aSbc8 l r)
  return false

/-- CMP of A or memory: nothing is written (R662). -/
def audioCmp (op : AAlu) : A Bool := do
  let (l, r, _) ← aluOperands op
  aCmp8 l r
  return false

/-- CMP X,src (R662). -/
def audioCmpX (src : ASrc) : A Bool := do
  let r ← asrc src
  aCmp8 (← get).x r
  return false

/-- CMP Y,src (R662). -/
def audioCmpY (src : ASrc) : A Bool := do
  let r ← asrc src
  aCmp8 (← get).y r
  return false

/-- A logical operation: the result stored, n and z from it (R663 to R665). -/
def aLogic (f : Byte → Byte → Byte) (op : AAlu) : A Bool := do
  let (l, r, dst) ← aluOperands op
  aluStore dst (f l r)
  setnz (f l r)
  return false

/-- AND (R663). -/
def audioAnd (op : AAlu) : A Bool := aLogic (· &&& ·) op

/-- OR (R664). -/
def audioOr (op : AAlu) : A Bool := aLogic (· ||| ·) op

/-- EOR (R665). -/
def audioEor (op : AAlu) : A Bool := aLogic (· ^^^ ·) op

/-- INC (R666). -/
def audioInc (op : ARmw) : A Bool := do
  armw (fun v => do setnz (v + 1); return v + 1) op
  return false

/-- DEC (R667). -/
def audioDec (op : ARmw) : A Bool := do
  armw (fun v => do setnz (v - 1); return v - 1) op
  return false

/-- ASL (R668). -/
def audioAsl (op : ARmw) : A Bool := do
  armw (fun v => do
    setAflag aC (v.getLsbD 7)
    setnz (v <<< 1)
    return v <<< 1) op
  return false

/-- LSR (R669). -/
def audioLsr (op : ARmw) : A Bool := do
  armw (fun v => do
    setAflag aC (v.getLsbD 0)
    setnz (v >>> 1)
    return v >>> 1) op
  return false

/-- ROL (R670). -/
def audioRol (op : ARmw) : A Bool := do
  armw (fun v => do
    let r := (v <<< 1) ||| bitAt 0 (← aflag aC)
    setAflag aC (v.getLsbD 7)
    setnz r
    return r) op
  return false

/-- ROR (R671). -/
def audioRor (op : ARmw) : A Bool := do
  armw (fun v => do
    let r := (v >>> 1) ||| bitAt 7 (← aflag aC)
    setAflag aC (v.getLsbD 0)
    setnz r
    return r) op
  return false

/-- XCN A (R672). -/
def audioXcn : A Bool := do
  modify fun u => { u with a := (u.a >>> 4) ||| (u.a <<< 4) }
  setnz (← get).a
  return false

/-! ## Sixteen-bit operations -/

/-- MOVW YA,d (R673). -/
def audioMovwLd (o : Byte) : A Bool := do
  let w ← wordRead o
  modify fun u => { u with a := lo w, y := hi w }
  setnz16 w
  return false

/-- MOVW d,YA sets no flag (R673). -/
def audioMovwSt (o : Byte) : A Bool := do
  wordWrite o (← get).ya
  return false

/-- INCW d (R674). -/
def audioIncw (o : Byte) : A Bool := do
  let w ← wordRead o
  wordWrite o (w + 1)
  setnz16 (w + 1)
  return false

/-- DECW d (R675). -/
def audioDecw (o : Byte) : A Bool := do
  let w ← wordRead o
  wordWrite o (w - 1)
  setnz16 (w - 1)
  return false

/-- ADDW YA,d (R676). -/
def audioAddw (o : Byte) : A Bool := do
  let w ← wordRead o
  setAflag aC false
  let a ← aAdc8 (← get).a (lo w)
  let y ← aAdc8 (← get).y (hi w)
  modify fun u => { u with a := a, y := y }
  setnz16 (mkWord y a)
  return false

/-- SUBW YA,d (R677). -/
def audioSubw (o : Byte) : A Bool := do
  let w ← wordRead o
  setAflag aC true
  let a ← aSbc8 (← get).a (lo w)
  let y ← aSbc8 (← get).y (hi w)
  modify fun u => { u with a := a, y := y }
  setnz16 (mkWord y a)
  return false

/-- CMPW YA,d (R678). -/
def audioCmpw (o : Byte) : A Bool := do
  let w ← wordRead o
  let ya := (← get).ya
  setAflag aC (decide (w.toNat ≤ ya.toNat))
  setnz16 (ya - w)
  return false

/-! ## Multiply, divide, decimal adjust -/

/-- MUL YA: flags from the high byte only (R679). -/
def audioMul : A Bool := do
  let u ← get
  let p := BitVec.ofNat 16 (u.y.toNat * u.a.toNat)
  set { u with a := lo p, y := hi p }
  setnz (hi p)
  return false

/-- The quotient and remainder DIV leaves in a and y, total for every input (R680). -/
def divYaX (ya : Word) (y x : Byte) : Byte × Byte :=
  if y.toNat < 2 * x.toNat then
    (BitVec.ofNat 8 (ya.toNat / x.toNat), BitVec.ofNat 8 (ya.toNat % x.toNat))
  else
    let t : Int := (ya.toNat : Int) - 512 * (x.toNat : Int)
    let n : Int := 256 - (x.toNat : Int)
    (BitVec.ofInt 8 (255 - Int.fdiv t n), BitVec.ofInt 8 ((x.toNat : Int) + Int.fmod t n))

/-- DIV YA,X (R680). -/
def audioDiv : A Bool := do
  let u ← get
  setAflag aH (decide ((u.x &&& 0x0F).toNat ≤ (u.y &&& 0x0F).toNat))
  setAflag aV (decide (u.x.toNat ≤ u.y.toNat))
  let (q, r) := divYaX u.ya u.y u.x
  modify fun u => { u with a := q, y := r }
  setnz q
  return false

/-- DAA A (R681). -/
def audioDaa : A Bool := do
  let u ← get
  if u.psw.getLsbD aC || decide (u.a.toNat > 0x99) then
    modify fun u => { u with a := u.a + 0x60 }
    setAflag aC true
  let u ← get
  if u.psw.getLsbD aH || decide ((u.a &&& 0x0F).toNat > 9) then
    modify fun u => { u with a := u.a + 0x06 }
  setnz (← get).a
  return false

/-- DAS A (R682). -/
def audioDas : A Bool := do
  let u ← get
  if !u.psw.getLsbD aC || decide (u.a.toNat > 0x99) then
    modify fun u => { u with a := u.a - 0x60 }
    setAflag aC false
  let u ← get
  if !u.psw.getLsbD aH || decide ((u.a &&& 0x0F).toNat > 9) then
    modify fun u => { u with a := u.a - 0x06 }
  setnz (← get).a
  return false

end Sys2Proof.Machine
end

