-- ==== Sys2Proof/WellFormed.lean ====
section
/-!
DEFINITION. Which operand forms each mnemonic has (the "Operands" line of its rule; R302, R311).
An instruction is well-formed when its form is one of those; every other pair has no encoding.
-/

namespace Sys2Proof

/-- The main-CPU operand forms that choose among a mnemonic's encodings (R302). -/
inductive Form where
  | immM
  | immX
  | acc
  | dp
  | dpx
  | dpy
  | dpind
  | dpxind
  | dpindy
  | dpindl
  | dpindly
  | sr
  | sriy
  | abs
  | absx
  | absy
  | long
  | longx
deriving DecidableEq, Repr

/-- The audio-CPU operand forms that choose among a mnemonic's encodings (R311). -/
inductive AForm where
  | imm
  | d
  | dx
  | dy
  | idx
  | idy
  | abs
  | absx
  | absy
  | ix
  | regA
  | regX
  | regY
  | ddDs
  | dImm
  | ixIy
deriving DecidableEq, Repr

/-- The form of a memory operand. -/
def AddrMode.form : AddrMode → Form
  | .dp _ => .dp
  | .dpx _ => .dpx
  | .dpy _ => .dpy
  | .dpind _ => .dpind
  | .dpxind _ => .dpxind
  | .dpindy _ => .dpindy
  | .dpindl _ => .dpindl
  | .dpindly _ => .dpindly
  | .sr _ => .sr
  | .sriy _ => .sriy
  | .abs _ => .abs
  | .absx _ => .absx
  | .absy _ => .absy
  | .long _ => .long
  | .longx _ => .longx

/-- The form of a source operand whose immediate has the accumulator's width. -/
def Src.formM : Src → Form
  | .imm _ => .immM
  | .mem m => m.form

/-- The form of a source operand whose immediate has the index registers' width. -/
def Src.formX : Src → Form
  | .imm _ => .immX
  | .mem m => m.form

/-- The form of a read-modify-write operand. -/
def Rmw.form : Rmw → Form
  | .acc => .acc
  | .mem m => m.form

/-- The form of an audio memory operand. -/
def AMode.form : AMode → AForm
  | .d _ => .d
  | .dx _ => .dx
  | .dy _ => .dy
  | .idx _ => .idx
  | .idy _ => .idy
  | .abs _ => .abs
  | .absx _ => .absx
  | .absy _ => .absy
  | .ix => .ix

/-- The form of an audio source operand. -/
def ASrc.form : ASrc → AForm
  | .imm _ => .imm
  | .mem m => m.form

/-- The form of an audio ALU operand pair. -/
def AAlu.form : AAlu → AForm
  | .acc s => s.form
  | .dd _ _ => .ddDs
  | .dImm _ _ => .dImm
  | .xy => .ixIy

/-- The form of an audio read-modify-write operand. -/
def ARmw.form : ARmw → AForm
  | .a => .regA
  | .x => .regX
  | .y => .regY
  | .mem m => m.form

/-- "The 15 forms of LDA" (R450). -/
def ldaForms : List Form :=
  [.dp, .dpx, .dpind, .dpxind, .dpindy, .dpindl, .dpindly, .sr, .sriy, .immM, .abs, .absx, .absy, .long, .longx]

/-- The forms of STA: "every form of LDA except immM" (R453). -/
def staForms : List Form :=
  [.dp, .dpx, .dpind, .dpxind, .dpindy, .dpindl, .dpindly, .sr, .sriy, .abs, .absx, .absy, .long, .longx]

/-- The forms of the shifts and of INC and DEC (R545, R546, R551 to R554). -/
def rmwForms : List Form := [.acc, .dp, .abs, .dpx, .absx]

/-- The twelve forms of the audio ALU operations (R311; R660 to R665). -/
def aluForms : List AForm := [.imm, .ix, .idx, .d, .dx, .abs, .absx, .absy, .idy, .ddDs, .dImm, .ixIy]

/-- The forms of audio INC and DEC (R666, R667). -/
def aIncForms : List AForm := [.regA, .regX, .regY, .d, .dx, .abs]

/-- The forms of the audio shifts (R668 to R671). -/
def aShiftForms : List AForm := [.regA, .d, .dx, .abs]

/-- Well-formedness: the form is one the mnemonic's rule lists. Instructions of a single form are always well-formed. -/
def Instr.wf : Instr → Bool
  | .lda s | .adc s | .sbc s | .cmp s | .and s | .ora s | .eor s => ldaForms.contains s.formM
  | .ldx s => [Form.immX, .dp, .dpy, .abs, .absy].contains s.formX
  | .ldy s => [Form.immX, .dp, .dpx, .abs, .absx].contains s.formX
  | .cpx s | .cpy s => [Form.immX, .dp, .abs].contains s.formX
  | .bit s => [Form.dp, .abs, .dpx, .absx, .immM].contains s.formM
  | .sta m => staForms.contains m.form
  | .stx m => [Form.dp, .dpy, .abs].contains m.form
  | .sty m => [Form.dp, .dpx, .abs].contains m.form
  | .stz m => [Form.dp, .dpx, .abs, .absx].contains m.form
  | .tsb m | .trb m => [Form.dp, .abs].contains m.form
  | .inc r | .dec r | .asl r | .lsr r | .rol r | .ror r => rmwForms.contains r.form
  | .aMovA s => [AForm.imm, .ix, .d, .dx, .abs, .absx, .absy, .idx, .idy].contains s.form
  | .aMovX s => [AForm.imm, .d, .dy, .abs].contains s.form
  | .aMovY s => [AForm.imm, .d, .dx, .abs].contains s.form
  | .aMovStA m => [AForm.ix, .d, .dx, .abs, .absx, .absy, .idx, .idy].contains m.form
  | .aMovStX m => [AForm.d, .dy, .abs].contains m.form
  | .aMovStY m => [AForm.d, .dx, .abs].contains m.form
  | .aAdc o | .aSbc o | .aCmp o | .aAnd o | .aOr o | .aEor o => aluForms.contains o.form
  | .aCmpX s | .aCmpY s => [AForm.imm, .d, .abs].contains s.form
  | .aInc r | .aDec r => aIncForms.contains r.form
  | .aAsl r | .aLsr r | .aRol r | .aRor r => aShiftForms.contains r.form
  | .tax | .tay | .txa | .tya | .txy | .tyx | .tsx | .txs | .tcs | .tsc | .tcd | .tdc | .xba
  | .mvn _ _ | .mvp _ _
  | .pha | .phx | .phy | .php | .phb | .phk | .phd | .pla | .plx | .ply | .plp | .plb | .pld
  | .pea _ | .pei _ | .per _ | .inx | .iny | .dex | .dey
  | .bpl _ | .bmi _ | .bvc _ | .bvs _ | .bcc _ | .bcs _ | .bne _ | .beq _ | .bra _ | .brl _
  | .jmp _ | .jmpInd _ | .jmpIndX _ | .jml _ | .jmlInd _ | .jsr _ | .jsrIndX _ | .jsl _
  | .rts | .rtl | .rti | .brk _ | .cop _
  | .clc | .sec | .cli | .sei | .cld | .sed | .clv | .rep _ | .sep _ | .xce | .nop | .wdm _ | .wai | .stp
  | .aMovXA | .aMovAX | .aMovYA | .aMovAY | .aMovXSp | .aMovSpX | .aMovDD _ _ | .aMovDI _ _ | .aMovIncA | .aMovAInc
  | .aXcn | .aMovwLd _ | .aMovwSt _ | .aIncw _ | .aDecw _ | .aAddw _ | .aSubw _ | .aCmpw _ | .aMul | .aDiv | .aDaa | .aDas
  | .aBra _ | .aBeq _ | .aBne _ | .aBcs _ | .aBcc _ | .aBvs _ | .aBvc _ | .aBmi _ | .aBpl _
  | .aBbs _ _ _ | .aBbc _ _ _ | .aCbne _ _ | .aCbneX _ _ | .aDbnz _ _ | .aDbnzY _
  | .aJmp _ | .aJmpInd _ | .aCall _ | .aPcall _ | .aTcall _ | .aBrk | .aRet | .aReti | .aPush _ | .aPop _
  | .aSet1 _ _ | .aClr1 _ _ | .aTset1 _ | .aTclr1 _ | .aAnd1 _ _ _ | .aOr1 _ _ _ | .aEor1 _ _ | .aNot1 _ _
  | .aMov1Ld _ _ | .aMov1St _ _
  | .aClrc | .aSetc | .aNotc | .aClrv | .aClrp | .aSetp | .aEi | .aDi | .aNop | .aSleep | .aStop => true

/-- An immediate of the right width: 8 bits when the width flag is 1, else 16 bits (R303, R405). -/
def Imm.fits (flag : Bool) : Imm → Bool
  | .b8 _ => flag
  | .b16 _ => !flag

/-- A source operand whose immediate, if it is one, has the width the flag gives. -/
def Src.fits (flag : Bool) : Src → Bool
  | .imm v => v.fits flag
  | .mem _ => true

/-- The immediate, if the instruction has one of flag-dependent width, has the width M or X gives (R303): such an instruction
is read back by a decoder with the same M and X. -/
def Instr.fits (m x : Bool) : Instr → Bool
  | .lda s | .adc s | .sbc s | .cmp s | .and s | .ora s | .eor s | .bit s => s.fits m
  | .ldx s | .ldy s | .cpx s | .cpy s => s.fits x
  | _ => true

/-- True of the audio CPU's instructions (R313). -/
def Instr.isAudio : Instr → Bool
  | .aMovA _ | .aMovX _ | .aMovY _ | .aMovStA _ | .aMovStX _ | .aMovStY _
  | .aMovXA | .aMovAX | .aMovYA | .aMovAY | .aMovXSp | .aMovSpX | .aMovDD _ _ | .aMovDI _ _ | .aMovIncA | .aMovAInc
  | .aAdc _ | .aSbc _ | .aCmp _ | .aCmpX _ | .aCmpY _ | .aAnd _ | .aOr _ | .aEor _
  | .aInc _ | .aDec _ | .aAsl _ | .aLsr _ | .aRol _ | .aRor _
  | .aXcn | .aMovwLd _ | .aMovwSt _ | .aIncw _ | .aDecw _ | .aAddw _ | .aSubw _ | .aCmpw _ | .aMul | .aDiv | .aDaa | .aDas
  | .aBra _ | .aBeq _ | .aBne _ | .aBcs _ | .aBcc _ | .aBvs _ | .aBvc _ | .aBmi _ | .aBpl _
  | .aBbs _ _ _ | .aBbc _ _ _ | .aCbne _ _ | .aCbneX _ _ | .aDbnz _ _ | .aDbnzY _
  | .aJmp _ | .aJmpInd _ | .aCall _ | .aPcall _ | .aTcall _ | .aBrk | .aRet | .aReti | .aPush _ | .aPop _
  | .aSet1 _ _ | .aClr1 _ _ | .aTset1 _ | .aTclr1 _ | .aAnd1 _ _ _ | .aOr1 _ _ _ | .aEor1 _ _ | .aNot1 _ _
  | .aMov1Ld _ _ | .aMov1St _ _
  | .aClrc | .aSetc | .aNotc | .aClrv | .aClrp | .aSetp | .aEi | .aDi | .aNop | .aSleep | .aStop => true
  | _ => false

end Sys2Proof
end

