-- ==== Sys2Proof/Decode.lean ====
section
/-!
DEFINITION. Decoding of both CPUs by the opcode byte (R300 to R316), total on any bytes, and after it the encoder.
The decoder reads the maps of R305 and R313; the encoder is written from the encodings the rules and R306, R312 and R659 give.
-/

namespace Sys2Proof

/-- What follows an opcode byte (R301, R302, R311): the instruction, waiting for its operand bytes. -/
inductive Shape where
  /-- no operand byte -/
  | b0 (i : Instr)
  /-- one operand byte -/
  | b1 (k : Byte → Instr)
  /-- a 16-bit field, low byte first -/
  | w2 (k : Word → Instr)
  /-- a 24-bit field, low byte first -/
  | l3 (k : Addr → Instr)
  /-- two operand bytes, in order -/
  | bb (k : Byte → Byte → Instr)
  /-- an immediate of the accumulator's width -/
  | immM (k : Imm → Instr)
  /-- an immediate of the index registers' width -/
  | immX (k : Imm → Instr)
  /-- the audio `m.b` word: bits 12-0 an address, bits 15-13 a bit number -/
  | mb (k : BitVec 13 → BitVec 3 → Instr)

/-- The 24-bit field of three operand bytes, `b1 | b2<<8 | b3<<16` (R301). -/
def long24 (b1 b2 b3 : Byte) : Addr := b3 ++ b2 ++ b1

/-- The 16-bit field of two operand bytes, `b1 | b2<<8` (R301). -/
def word16 (b1 b2 : Byte) : Word := b2 ++ b1

/-- How many operand bytes follow the opcode, with the flags M and X given (R303, R304). -/
def Shape.operands (m x : Bool) : Shape → Nat
  | .b0 _ => 0
  | .b1 _ => 1
  | .w2 _ => 2
  | .l3 _ => 3
  | .bb _ => 2
  | .immM _ => if m then 1 else 2
  | .immX _ => if x then 1 else 2
  | .mb _ => 2

/-- The instruction the operand bytes complete, with the bytes left over; `none` where a byte is missing. -/
def Shape.build (m x : Bool) : Shape → List Byte → Option (Instr × List Byte)
  | .b0 i, bs => some (i, bs)
  | .b1 k, lo :: bs => some (k lo, bs)
  | .w2 k, lo :: mid :: bs => some (k (word16 lo mid), bs)
  | .l3 k, lo :: mid :: hi :: bs => some (k (long24 lo mid hi), bs)
  | .bb k, lo :: mid :: bs => some (k lo mid, bs)
  | .immM k, lo :: bs =>
    if m then some (k (.b8 lo), bs)
    else match bs with
      | mid :: bs' => some (k (.b16 (word16 lo mid)), bs')
      | [] => none
  | .immX k, lo :: bs =>
    if x then some (k (.b8 lo), bs)
    else match bs with
      | mid :: bs' => some (k (.b16 (word16 lo mid)), bs')
      | [] => none
  | .mb k, lo :: mid :: bs =>
    some (k ((word16 lo mid).extractLsb' 0 13) ((word16 lo mid).extractLsb' 13 3), bs)
  | _, _ => none

/-! ## The main CPU's map (R305), one definition per row -/

/-- Row 0x of R305. -/
def main0 : List Shape :=
  [.b1 .brk, .b1 (.ora <| .mem <| .dpxind ·), .b1 .cop, .b1 (.ora <| .mem <| .sr ·),
   .b1 (.tsb <| .dp ·), .b1 (.ora <| .mem <| .dp ·), .b1 (.asl <| .mem <| .dp ·), .b1 (.ora <| .mem <| .dpindl ·),
   .b0 .php, .immM (.ora <| .imm ·), .b0 (.asl .acc), .b0 .phd,
   .w2 (.tsb <| .abs ·), .w2 (.ora <| .mem <| .abs ·), .w2 (.asl <| .mem <| .abs ·), .l3 (.ora <| .mem <| .long ·)]

/-- Row 1x of R305. -/
def main1 : List Shape :=
  [.b1 .bpl, .b1 (.ora <| .mem <| .dpindy ·), .b1 (.ora <| .mem <| .dpind ·), .b1 (.ora <| .mem <| .sriy ·),
   .b1 (.trb <| .dp ·), .b1 (.ora <| .mem <| .dpx ·), .b1 (.asl <| .mem <| .dpx ·), .b1 (.ora <| .mem <| .dpindly ·),
   .b0 .clc, .w2 (.ora <| .mem <| .absy ·), .b0 (.inc .acc), .b0 .tcs,
   .w2 (.trb <| .abs ·), .w2 (.ora <| .mem <| .absx ·), .w2 (.asl <| .mem <| .absx ·), .l3 (.ora <| .mem <| .longx ·)]

/-- Row 2x of R305. -/
def main2 : List Shape :=
  [.w2 .jsr, .b1 (.and <| .mem <| .dpxind ·), .l3 .jsl, .b1 (.and <| .mem <| .sr ·),
   .b1 (.bit <| .mem <| .dp ·), .b1 (.and <| .mem <| .dp ·), .b1 (.rol <| .mem <| .dp ·), .b1 (.and <| .mem <| .dpindl ·),
   .b0 .plp, .immM (.and <| .imm ·), .b0 (.rol .acc), .b0 .pld,
   .w2 (.bit <| .mem <| .abs ·), .w2 (.and <| .mem <| .abs ·), .w2 (.rol <| .mem <| .abs ·), .l3 (.and <| .mem <| .long ·)]

/-- Row 3x of R305. -/
def main3 : List Shape :=
  [.b1 .bmi, .b1 (.and <| .mem <| .dpindy ·), .b1 (.and <| .mem <| .dpind ·), .b1 (.and <| .mem <| .sriy ·),
   .b1 (.bit <| .mem <| .dpx ·), .b1 (.and <| .mem <| .dpx ·), .b1 (.rol <| .mem <| .dpx ·), .b1 (.and <| .mem <| .dpindly ·),
   .b0 .sec, .w2 (.and <| .mem <| .absy ·), .b0 (.dec .acc), .b0 .tsc,
   .w2 (.bit <| .mem <| .absx ·), .w2 (.and <| .mem <| .absx ·), .w2 (.rol <| .mem <| .absx ·), .l3 (.and <| .mem <| .longx ·)]

/-- Row 4x of R305; the block moves are encoded destination bank first (R301). -/
def main4 : List Shape :=
  [.b0 .rti, .b1 (.eor <| .mem <| .dpxind ·), .b1 .wdm, .b1 (.eor <| .mem <| .sr ·),
   .bb .mvp, .b1 (.eor <| .mem <| .dp ·), .b1 (.lsr <| .mem <| .dp ·), .b1 (.eor <| .mem <| .dpindl ·),
   .b0 .pha, .immM (.eor <| .imm ·), .b0 (.lsr .acc), .b0 .phk,
   .w2 .jmp, .w2 (.eor <| .mem <| .abs ·), .w2 (.lsr <| .mem <| .abs ·), .l3 (.eor <| .mem <| .long ·)]

/-- Row 5x of R305. -/
def main5 : List Shape :=
  [.b1 .bvc, .b1 (.eor <| .mem <| .dpindy ·), .b1 (.eor <| .mem <| .dpind ·), .b1 (.eor <| .mem <| .sriy ·),
   .bb .mvn, .b1 (.eor <| .mem <| .dpx ·), .b1 (.lsr <| .mem <| .dpx ·), .b1 (.eor <| .mem <| .dpindly ·),
   .b0 .cli, .w2 (.eor <| .mem <| .absy ·), .b0 .phy, .b0 .tcd,
   .l3 .jml, .w2 (.eor <| .mem <| .absx ·), .w2 (.lsr <| .mem <| .absx ·), .l3 (.eor <| .mem <| .longx ·)]

/-- Row 6x of R305. -/
def main6 : List Shape :=
  [.b0 .rts, .b1 (.adc <| .mem <| .dpxind ·), .w2 .per, .b1 (.adc <| .mem <| .sr ·),
   .b1 (.stz <| .dp ·), .b1 (.adc <| .mem <| .dp ·), .b1 (.ror <| .mem <| .dp ·), .b1 (.adc <| .mem <| .dpindl ·),
   .b0 .pla, .immM (.adc <| .imm ·), .b0 (.ror .acc), .b0 .rtl,
   .w2 .jmpInd, .w2 (.adc <| .mem <| .abs ·), .w2 (.ror <| .mem <| .abs ·), .l3 (.adc <| .mem <| .long ·)]

/-- Row 7x of R305. -/
def main7 : List Shape :=
  [.b1 .bvs, .b1 (.adc <| .mem <| .dpindy ·), .b1 (.adc <| .mem <| .dpind ·), .b1 (.adc <| .mem <| .sriy ·),
   .b1 (.stz <| .dpx ·), .b1 (.adc <| .mem <| .dpx ·), .b1 (.ror <| .mem <| .dpx ·), .b1 (.adc <| .mem <| .dpindly ·),
   .b0 .sei, .w2 (.adc <| .mem <| .absy ·), .b0 .ply, .b0 .tdc,
   .w2 .jmpIndX, .w2 (.adc <| .mem <| .absx ·), .w2 (.ror <| .mem <| .absx ·), .l3 (.adc <| .mem <| .longx ·)]

/-- Row 8x of R305. -/
def main8 : List Shape :=
  [.b1 .bra, .b1 (.sta <| .dpxind ·), .w2 .brl, .b1 (.sta <| .sr ·),
   .b1 (.sty <| .dp ·), .b1 (.sta <| .dp ·), .b1 (.stx <| .dp ·), .b1 (.sta <| .dpindl ·),
   .b0 .dey, .immM (.bit <| .imm ·), .b0 .txa, .b0 .phb,
   .w2 (.sty <| .abs ·), .w2 (.sta <| .abs ·), .w2 (.stx <| .abs ·), .l3 (.sta <| .long ·)]

/-- Row 9x of R305. -/
def main9 : List Shape :=
  [.b1 .bcc, .b1 (.sta <| .dpindy ·), .b1 (.sta <| .dpind ·), .b1 (.sta <| .sriy ·),
   .b1 (.sty <| .dpx ·), .b1 (.sta <| .dpx ·), .b1 (.stx <| .dpy ·), .b1 (.sta <| .dpindly ·),
   .b0 .tya, .w2 (.sta <| .absy ·), .b0 .txs, .b0 .txy,
   .w2 (.stz <| .abs ·), .w2 (.sta <| .absx ·), .w2 (.stz <| .absx ·), .l3 (.sta <| .longx ·)]

/-- Row Ax of R305. -/
def mainA : List Shape :=
  [.immX (.ldy <| .imm ·), .b1 (.lda <| .mem <| .dpxind ·), .immX (.ldx <| .imm ·), .b1 (.lda <| .mem <| .sr ·),
   .b1 (.ldy <| .mem <| .dp ·), .b1 (.lda <| .mem <| .dp ·), .b1 (.ldx <| .mem <| .dp ·), .b1 (.lda <| .mem <| .dpindl ·),
   .b0 .tay, .immM (.lda <| .imm ·), .b0 .tax, .b0 .plb,
   .w2 (.ldy <| .mem <| .abs ·), .w2 (.lda <| .mem <| .abs ·), .w2 (.ldx <| .mem <| .abs ·), .l3 (.lda <| .mem <| .long ·)]

/-- Row Bx of R305. -/
def mainB : List Shape :=
  [.b1 .bcs, .b1 (.lda <| .mem <| .dpindy ·), .b1 (.lda <| .mem <| .dpind ·), .b1 (.lda <| .mem <| .sriy ·),
   .b1 (.ldy <| .mem <| .dpx ·), .b1 (.lda <| .mem <| .dpx ·), .b1 (.ldx <| .mem <| .dpy ·), .b1 (.lda <| .mem <| .dpindly ·),
   .b0 .clv, .w2 (.lda <| .mem <| .absy ·), .b0 .tsx, .b0 .tyx,
   .w2 (.ldy <| .mem <| .absx ·), .w2 (.lda <| .mem <| .absx ·), .w2 (.ldx <| .mem <| .absy ·), .l3 (.lda <| .mem <| .longx ·)]

/-- Row Cx of R305. -/
def mainC : List Shape :=
  [.immX (.cpy <| .imm ·), .b1 (.cmp <| .mem <| .dpxind ·), .b1 .rep, .b1 (.cmp <| .mem <| .sr ·),
   .b1 (.cpy <| .mem <| .dp ·), .b1 (.cmp <| .mem <| .dp ·), .b1 (.dec <| .mem <| .dp ·), .b1 (.cmp <| .mem <| .dpindl ·),
   .b0 .iny, .immM (.cmp <| .imm ·), .b0 .dex, .b0 .wai,
   .w2 (.cpy <| .mem <| .abs ·), .w2 (.cmp <| .mem <| .abs ·), .w2 (.dec <| .mem <| .abs ·), .l3 (.cmp <| .mem <| .long ·)]

/-- Row Dx of R305. -/
def mainD : List Shape :=
  [.b1 .bne, .b1 (.cmp <| .mem <| .dpindy ·), .b1 (.cmp <| .mem <| .dpind ·), .b1 (.cmp <| .mem <| .sriy ·),
   .b1 .pei, .b1 (.cmp <| .mem <| .dpx ·), .b1 (.dec <| .mem <| .dpx ·), .b1 (.cmp <| .mem <| .dpindly ·),
   .b0 .cld, .w2 (.cmp <| .mem <| .absy ·), .b0 .phx, .b0 .stp,
   .w2 .jmlInd, .w2 (.cmp <| .mem <| .absx ·), .w2 (.dec <| .mem <| .absx ·), .l3 (.cmp <| .mem <| .longx ·)]

/-- Row Ex of R305. -/
def mainE : List Shape :=
  [.immX (.cpx <| .imm ·), .b1 (.sbc <| .mem <| .dpxind ·), .b1 .sep, .b1 (.sbc <| .mem <| .sr ·),
   .b1 (.cpx <| .mem <| .dp ·), .b1 (.sbc <| .mem <| .dp ·), .b1 (.inc <| .mem <| .dp ·), .b1 (.sbc <| .mem <| .dpindl ·),
   .b0 .inx, .immM (.sbc <| .imm ·), .b0 .nop, .b0 .xba,
   .w2 (.cpx <| .mem <| .abs ·), .w2 (.sbc <| .mem <| .abs ·), .w2 (.inc <| .mem <| .abs ·), .l3 (.sbc <| .mem <| .long ·)]

/-- Row Fx of R305. -/
def mainF : List Shape :=
  [.b1 .beq, .b1 (.sbc <| .mem <| .dpindy ·), .b1 (.sbc <| .mem <| .dpind ·), .b1 (.sbc <| .mem <| .sriy ·),
   .w2 .pea, .b1 (.sbc <| .mem <| .dpx ·), .b1 (.inc <| .mem <| .dpx ·), .b1 (.sbc <| .mem <| .dpindly ·),
   .b0 .sed, .w2 (.sbc <| .mem <| .absy ·), .b0 .plx, .b0 .xce,
   .w2 .jsrIndX, .w2 (.sbc <| .mem <| .absx ·), .w2 (.inc <| .mem <| .absx ·), .l3 (.sbc <| .mem <| .longx ·)]

/-- The rows of R305 in order. -/
def mainRows : List (List Shape) :=
  [main0, main1, main2, main3, main4, main5, main6, main7, main8, main9, mainA, mainB, mainC, mainD, mainE, mainF]

/-! ## The audio CPU's map (R313), one definition per row -/

/-- Row 0x of R313. -/
def audio0 : List Shape :=
  [.b0 .aNop, .b0 (.aTcall 0), .b1 (.aSet1 0 ·), .bb (.aBbs 0 · ·),
   .b1 (.aOr <| .acc <| .mem <| .d ·), .w2 (.aOr <| .acc <| .mem <| .abs ·), .b0 (.aOr <| .acc <| .mem .ix), .b1 (.aOr <| .acc <| .mem <| .idx ·),
   .b1 (.aOr <| .acc <| .imm ·), .bb (fun ds dd => .aOr (.dd ds dd)), .mb (.aOr1 false · ·), .b1 (.aAsl <| .mem <| .d ·),
   .w2 (.aAsl <| .mem <| .abs ·), .b0 (.aPush .psw), .w2 .aTset1, .b0 .aBrk]

/-- Row 1x of R313. -/
def audio1 : List Shape :=
  [.b1 .aBpl, .b0 (.aTcall 1), .b1 (.aClr1 0 ·), .bb (.aBbc 0 · ·),
   .b1 (.aOr <| .acc <| .mem <| .dx ·), .w2 (.aOr <| .acc <| .mem <| .absx ·), .w2 (.aOr <| .acc <| .mem <| .absy ·), .b1 (.aOr <| .acc <| .mem <| .idy ·),
   .bb (fun i d => .aOr (.dImm i d)), .b0 (.aOr .xy), .b1 .aDecw, .b1 (.aAsl <| .mem <| .dx ·),
   .b0 (.aAsl .a), .b0 (.aDec .x), .w2 (.aCmpX <| .mem <| .abs ·), .w2 .aJmpInd]

/-- Row 2x of R313. -/
def audio2 : List Shape :=
  [.b0 .aClrp, .b0 (.aTcall 2), .b1 (.aSet1 1 ·), .bb (.aBbs 1 · ·),
   .b1 (.aAnd <| .acc <| .mem <| .d ·), .w2 (.aAnd <| .acc <| .mem <| .abs ·), .b0 (.aAnd <| .acc <| .mem .ix), .b1 (.aAnd <| .acc <| .mem <| .idx ·),
   .b1 (.aAnd <| .acc <| .imm ·), .bb (fun ds dd => .aAnd (.dd ds dd)), .mb (.aOr1 true · ·), .b1 (.aRol <| .mem <| .d ·),
   .w2 (.aRol <| .mem <| .abs ·), .b0 (.aPush .a), .bb .aCbne, .b1 .aBra]

/-- Row 3x of R313. -/
def audio3 : List Shape :=
  [.b1 .aBmi, .b0 (.aTcall 3), .b1 (.aClr1 1 ·), .bb (.aBbc 1 · ·),
   .b1 (.aAnd <| .acc <| .mem <| .dx ·), .w2 (.aAnd <| .acc <| .mem <| .absx ·), .w2 (.aAnd <| .acc <| .mem <| .absy ·), .b1 (.aAnd <| .acc <| .mem <| .idy ·),
   .bb (fun i d => .aAnd (.dImm i d)), .b0 (.aAnd .xy), .b1 .aIncw, .b1 (.aRol <| .mem <| .dx ·),
   .b0 (.aRol .a), .b0 (.aInc .x), .b1 (.aCmpX <| .mem <| .d ·), .w2 .aCall]

/-- Row 4x of R313. -/
def audio4 : List Shape :=
  [.b0 .aSetp, .b0 (.aTcall 4), .b1 (.aSet1 2 ·), .bb (.aBbs 2 · ·),
   .b1 (.aEor <| .acc <| .mem <| .d ·), .w2 (.aEor <| .acc <| .mem <| .abs ·), .b0 (.aEor <| .acc <| .mem .ix), .b1 (.aEor <| .acc <| .mem <| .idx ·),
   .b1 (.aEor <| .acc <| .imm ·), .bb (fun ds dd => .aEor (.dd ds dd)), .mb (.aAnd1 false · ·), .b1 (.aLsr <| .mem <| .d ·),
   .w2 (.aLsr <| .mem <| .abs ·), .b0 (.aPush .x), .w2 .aTclr1, .b1 .aPcall]

/-- Row 5x of R313. -/
def audio5 : List Shape :=
  [.b1 .aBvc, .b0 (.aTcall 5), .b1 (.aClr1 2 ·), .bb (.aBbc 2 · ·),
   .b1 (.aEor <| .acc <| .mem <| .dx ·), .w2 (.aEor <| .acc <| .mem <| .absx ·), .w2 (.aEor <| .acc <| .mem <| .absy ·), .b1 (.aEor <| .acc <| .mem <| .idy ·),
   .bb (fun i d => .aEor (.dImm i d)), .b0 (.aEor .xy), .b1 .aCmpw, .b1 (.aLsr <| .mem <| .dx ·),
   .b0 (.aLsr .a), .b0 .aMovXA, .w2 (.aCmpY <| .mem <| .abs ·), .w2 .aJmp]

/-- Row 6x of R313. -/
def audio6 : List Shape :=
  [.b0 .aClrc, .b0 (.aTcall 6), .b1 (.aSet1 3 ·), .bb (.aBbs 3 · ·),
   .b1 (.aCmp <| .acc <| .mem <| .d ·), .w2 (.aCmp <| .acc <| .mem <| .abs ·), .b0 (.aCmp <| .acc <| .mem .ix), .b1 (.aCmp <| .acc <| .mem <| .idx ·),
   .b1 (.aCmp <| .acc <| .imm ·), .bb (fun ds dd => .aCmp (.dd ds dd)), .mb (.aAnd1 true · ·), .b1 (.aRor <| .mem <| .d ·),
   .w2 (.aRor <| .mem <| .abs ·), .b0 (.aPush .y), .bb .aDbnz, .b0 .aRet]

/-- Row 7x of R313. -/
def audio7 : List Shape :=
  [.b1 .aBvs, .b0 (.aTcall 7), .b1 (.aClr1 3 ·), .bb (.aBbc 3 · ·),
   .b1 (.aCmp <| .acc <| .mem <| .dx ·), .w2 (.aCmp <| .acc <| .mem <| .absx ·), .w2 (.aCmp <| .acc <| .mem <| .absy ·), .b1 (.aCmp <| .acc <| .mem <| .idy ·),
   .bb (fun i d => .aCmp (.dImm i d)), .b0 (.aCmp .xy), .b1 .aAddw, .b1 (.aRor <| .mem <| .dx ·),
   .b0 (.aRor .a), .b0 .aMovAX, .b1 (.aCmpY <| .mem <| .d ·), .b0 .aReti]

/-- Row 8x of R313. -/
def audio8 : List Shape :=
  [.b0 .aSetc, .b0 (.aTcall 8), .b1 (.aSet1 4 ·), .bb (.aBbs 4 · ·),
   .b1 (.aAdc <| .acc <| .mem <| .d ·), .w2 (.aAdc <| .acc <| .mem <| .abs ·), .b0 (.aAdc <| .acc <| .mem .ix), .b1 (.aAdc <| .acc <| .mem <| .idx ·),
   .b1 (.aAdc <| .acc <| .imm ·), .bb (fun ds dd => .aAdc (.dd ds dd)), .mb .aEor1, .b1 (.aDec <| .mem <| .d ·),
   .w2 (.aDec <| .mem <| .abs ·), .b1 (.aMovY <| .imm ·), .b0 (.aPop .psw), .bb .aMovDI]

/-- Row 9x of R313. -/
def audio9 : List Shape :=
  [.b1 .aBcc, .b0 (.aTcall 9), .b1 (.aClr1 4 ·), .bb (.aBbc 4 · ·),
   .b1 (.aAdc <| .acc <| .mem <| .dx ·), .w2 (.aAdc <| .acc <| .mem <| .absx ·), .w2 (.aAdc <| .acc <| .mem <| .absy ·), .b1 (.aAdc <| .acc <| .mem <| .idy ·),
   .bb (fun i d => .aAdc (.dImm i d)), .b0 (.aAdc .xy), .b1 .aSubw, .b1 (.aDec <| .mem <| .dx ·),
   .b0 (.aDec .a), .b0 .aMovXSp, .b0 .aDiv, .b0 .aXcn]

/-- Row Ax of R313. -/
def audioA : List Shape :=
  [.b0 .aEi, .b0 (.aTcall 10), .b1 (.aSet1 5 ·), .bb (.aBbs 5 · ·),
   .b1 (.aSbc <| .acc <| .mem <| .d ·), .w2 (.aSbc <| .acc <| .mem <| .abs ·), .b0 (.aSbc <| .acc <| .mem .ix), .b1 (.aSbc <| .acc <| .mem <| .idx ·),
   .b1 (.aSbc <| .acc <| .imm ·), .bb (fun ds dd => .aSbc (.dd ds dd)), .mb .aMov1Ld, .b1 (.aInc <| .mem <| .d ·),
   .w2 (.aInc <| .mem <| .abs ·), .b1 (.aCmpY <| .imm ·), .b0 (.aPop .a), .b0 .aMovIncA]

/-- Row Bx of R313. -/
def audioB : List Shape :=
  [.b1 .aBcs, .b0 (.aTcall 11), .b1 (.aClr1 5 ·), .bb (.aBbc 5 · ·),
   .b1 (.aSbc <| .acc <| .mem <| .dx ·), .w2 (.aSbc <| .acc <| .mem <| .absx ·), .w2 (.aSbc <| .acc <| .mem <| .absy ·), .b1 (.aSbc <| .acc <| .mem <| .idy ·),
   .bb (fun i d => .aSbc (.dImm i d)), .b0 (.aSbc .xy), .b1 .aMovwLd, .b1 (.aInc <| .mem <| .dx ·),
   .b0 (.aInc .a), .b0 .aMovSpX, .b0 .aDas, .b0 .aMovAInc]

/-- Row Cx of R313. -/
def audioC : List Shape :=
  [.b0 .aDi, .b0 (.aTcall 12), .b1 (.aSet1 6 ·), .bb (.aBbs 6 · ·),
   .b1 (.aMovStA <| .d ·), .w2 (.aMovStA <| .abs ·), .b0 (.aMovStA .ix), .b1 (.aMovStA <| .idx ·),
   .b1 (.aCmpX <| .imm ·), .w2 (.aMovStX <| .abs ·), .mb .aMov1St, .b1 (.aMovStY <| .d ·),
   .w2 (.aMovStY <| .abs ·), .b1 (.aMovX <| .imm ·), .b0 (.aPop .x), .b0 .aMul]

/-- Row Dx of R313. -/
def audioD : List Shape :=
  [.b1 .aBne, .b0 (.aTcall 13), .b1 (.aClr1 6 ·), .bb (.aBbc 6 · ·),
   .b1 (.aMovStA <| .dx ·), .w2 (.aMovStA <| .absx ·), .w2 (.aMovStA <| .absy ·), .b1 (.aMovStA <| .idy ·),
   .b1 (.aMovStX <| .d ·), .b1 (.aMovStX <| .dy ·), .b1 .aMovwSt, .b1 (.aMovStY <| .dx ·),
   .b0 (.aDec .y), .b0 .aMovAY, .bb .aCbneX, .b0 .aDaa]

/-- Row Ex of R313. -/
def audioE : List Shape :=
  [.b0 .aClrv, .b0 (.aTcall 14), .b1 (.aSet1 7 ·), .bb (.aBbs 7 · ·),
   .b1 (.aMovA <| .mem <| .d ·), .w2 (.aMovA <| .mem <| .abs ·), .b0 (.aMovA <| .mem .ix), .b1 (.aMovA <| .mem <| .idx ·),
   .b1 (.aMovA <| .imm ·), .w2 (.aMovX <| .mem <| .abs ·), .mb .aNot1, .b1 (.aMovY <| .mem <| .d ·),
   .w2 (.aMovY <| .mem <| .abs ·), .b0 .aNotc, .b0 (.aPop .y), .b0 .aSleep]

/-- Row Fx of R313. -/
def audioF : List Shape :=
  [.b1 .aBeq, .b0 (.aTcall 15), .b1 (.aClr1 7 ·), .bb (.aBbc 7 · ·),
   .b1 (.aMovA <| .mem <| .dx ·), .w2 (.aMovA <| .mem <| .absx ·), .w2 (.aMovA <| .mem <| .absy ·), .b1 (.aMovA <| .mem <| .idy ·),
   .b1 (.aMovX <| .mem <| .d ·), .b1 (.aMovX <| .mem <| .dy ·), .bb .aMovDD, .b1 (.aMovY <| .mem <| .dx ·),
   .b0 (.aInc .y), .b0 .aMovYA, .b1 .aDbnzY, .b0 .aStop]

/-- The rows of R313 in order. -/
def audioRows : List (List Shape) :=
  [audio0, audio1, audio2, audio3, audio4, audio5, audio6, audio7, audio8, audio9, audioA, audioB, audioC, audioD, audioE, audioF]

/-! ## The decoders -/

/-- The entry of a map of 16 rows: row = high nibble, column = low nibble (R305, R313). -/
def mapEntry (rows : List (List Shape)) (op : Byte) : Option Shape :=
  (rows[op.toNat / 16]?).bind fun row => row[op.toNat % 16]?

/-- The operation and operand shape of a main-CPU opcode (R300, R305). -/
def mainShape (op : Byte) : Option Shape := mapEntry mainRows op

/-- The operation and operand shape of an audio opcode (R310, R313). -/
def audioShape (op : Byte) : Option Shape := mapEntry audioRows op

/-- The main-CPU instruction at the head of a list of bytes and the bytes after it, with the flags M and X as given (R300, R303).
Every opcode byte is defined (R307); `none` means that bytes are missing. -/
def decodeMain (m x : Bool) : List Byte → Option (Instr × List Byte)
  | [] => none
  | op :: bs => (mainShape op).bind fun sh => sh.build m x bs

/-- The audio instruction at the head of a list of bytes and the bytes after it (R310); no flag changes the length. -/
def decodeAudio : List Byte → Option (Instr × List Byte)
  | [] => none
  | op :: bs => (audioShape op).bind fun sh => sh.build true true bs

/-- The instruction the main CPU's decoder reads from a table word, in the mode after reset (M = X = 1, R106).
The word's bytes stand in memory lowest first; the bits above `nbits` are zero.
The table gives both instruction sets the same 8 bits, so an audio row's word reads as the main CPU's instruction here (log 16). -/
def decodeTableWord (nbits w : Nat) : Option Instr :=
  let v := w % 2 ^ nbits
  (decodeMain true true
    [BitVec.ofNat 8 v, BitVec.ofNat 8 (v / 0x100), BitVec.ofNat 8 (v / 0x10000), BitVec.ofNat 8 (v / 0x1000000)]).map
    (·.1)

/-! ## The encoder -/

/-- The opcode of an accumulator operation with row base `base` (bits 7-5 of R306): the mode bits of R306. -/
def aluOpcode (base : Byte) : Src → Option Byte
  | .imm _ => some (base ||| 0x09)
  | .mem (.dp _) => some (base ||| 0x05)
  | .mem (.dpx _) => some (base ||| 0x15)
  | .mem (.dpy _) => none
  | .mem (.dpind _) => some (base ||| 0x12)
  | .mem (.dpxind _) => some (base ||| 0x01)
  | .mem (.dpindy _) => some (base ||| 0x11)
  | .mem (.dpindl _) => some (base ||| 0x07)
  | .mem (.dpindly _) => some (base ||| 0x17)
  | .mem (.sr _) => some (base ||| 0x03)
  | .mem (.sriy _) => some (base ||| 0x13)
  | .mem (.abs _) => some (base ||| 0x0D)
  | .mem (.absx _) => some (base ||| 0x1D)
  | .mem (.absy _) => some (base ||| 0x19)
  | .mem (.long _) => some (base ||| 0x0F)
  | .mem (.longx _) => some (base ||| 0x1F)

/-- The opcode of STA: the accumulator operation 100 without its immediate slot (R306, R453). -/
def staOpcode (m : AddrMode) : Option Byte := aluOpcode 0x80 (.mem m)

/-- The opcode of a shift with row base `base` (R551 to R554). -/
def shiftOpcode (base : Byte) : Rmw → Option Byte
  | .acc => some (base ||| 0x0A)
  | .mem (.dp _) => some (base ||| 0x06)
  | .mem (.abs _) => some (base ||| 0x0E)
  | .mem (.dpx _) => some (base ||| 0x16)
  | .mem (.absx _) => some (base ||| 0x1E)
  | .mem _ => none

/-- The opcode of an audio `A,src` operation with row base `base` (R659). -/
def aAccOpcode (base : Byte) : ASrc → Option Byte
  | .imm _ => some (base ||| 0x08)
  | .mem (.d _) => some (base ||| 0x04)
  | .mem (.dx _) => some (base ||| 0x14)
  | .mem (.dy _) => none
  | .mem (.abs _) => some (base ||| 0x05)
  | .mem (.absx _) => some (base ||| 0x15)
  | .mem (.absy _) => some (base ||| 0x16)
  | .mem .ix => some (base ||| 0x06)
  | .mem (.idx _) => some (base ||| 0x07)
  | .mem (.idy _) => some (base ||| 0x17)

/-- The opcode of an audio ALU operation with row base `base` (R659). -/
def aAluOpcode (base : Byte) : AAlu → Option Byte
  | .acc s => aAccOpcode base s
  | .dd _ _ => some (base ||| 0x09)
  | .dImm _ _ => some (base ||| 0x18)
  | .xy => some (base ||| 0x19)

/-- The opcode of an audio shift with row base `base` (R668 to R671). -/
def aShiftOpcode (base : Byte) : ARmw → Option Byte
  | .a => some (base ||| 0x1C)
  | .mem (.d _) => some (base ||| 0x0B)
  | .mem (.dx _) => some (base ||| 0x1B)
  | .mem (.abs _) => some (base ||| 0x0C)
  | .x | .y | .mem _ => none

/-- A bit number in opcode bits 7-5 (R312). -/
def bitOpcode (low : Byte) (b : BitVec 3) : Byte := (b.setWidth 8) <<< 5 ||| low

/-- The opcode byte of an instruction, from its rule's Encoding line; `none` for a form the mnemonic does not have. -/
def Instr.opcode? : Instr → Option Byte
  | .lda s => aluOpcode 0xA0 s
  | .ldx (.imm _) => some 0xA2
  | .ldx (.mem (.dp _)) => some 0xA6
  | .ldx (.mem (.abs _)) => some 0xAE
  | .ldx (.mem (.dpy _)) => some 0xB6
  | .ldx (.mem (.absy _)) => some 0xBE
  | .ldx (.mem _) => none
  | .ldy (.imm _) => some 0xA0
  | .ldy (.mem (.dp _)) => some 0xA4
  | .ldy (.mem (.abs _)) => some 0xAC
  | .ldy (.mem (.dpx _)) => some 0xB4
  | .ldy (.mem (.absx _)) => some 0xBC
  | .ldy (.mem _) => none
  | .sta m => staOpcode m
  | .stx (.dp _) => some 0x86
  | .stx (.abs _) => some 0x8E
  | .stx (.dpy _) => some 0x96
  | .stx _ => none
  | .sty (.dp _) => some 0x84
  | .sty (.abs _) => some 0x8C
  | .sty (.dpx _) => some 0x94
  | .sty _ => none
  | .stz (.dp _) => some 0x64
  | .stz (.dpx _) => some 0x74
  | .stz (.abs _) => some 0x9C
  | .stz (.absx _) => some 0x9E
  | .stz _ => none
  | .tax => some 0xAA
  | .tay => some 0xA8
  | .txa => some 0x8A
  | .tya => some 0x98
  | .txy => some 0x9B
  | .tyx => some 0xBB
  | .tsx => some 0xBA
  | .txs => some 0x9A
  | .tcs => some 0x1B
  | .tsc => some 0x3B
  | .tcd => some 0x5B
  | .tdc => some 0x7B
  | .xba => some 0xEB
  | .mvn _ _ => some 0x54
  | .mvp _ _ => some 0x44
  | .pha => some 0x48
  | .phx => some 0xDA
  | .phy => some 0x5A
  | .php => some 0x08
  | .phb => some 0x8B
  | .phk => some 0x4B
  | .phd => some 0x0B
  | .pla => some 0x68
  | .plx => some 0xFA
  | .ply => some 0x7A
  | .plp => some 0x28
  | .plb => some 0xAB
  | .pld => some 0x2B
  | .pea _ => some 0xF4
  | .pei _ => some 0xD4
  | .per _ => some 0x62
  | .adc s => aluOpcode 0x60 s
  | .sbc s => aluOpcode 0xE0 s
  | .cmp s => aluOpcode 0xC0 s
  | .cpx (.imm _) => some 0xE0
  | .cpx (.mem (.dp _)) => some 0xE4
  | .cpx (.mem (.abs _)) => some 0xEC
  | .cpx (.mem _) => none
  | .cpy (.imm _) => some 0xC0
  | .cpy (.mem (.dp _)) => some 0xC4
  | .cpy (.mem (.abs _)) => some 0xCC
  | .cpy (.mem _) => none
  | .and s => aluOpcode 0x20 s
  | .ora s => aluOpcode 0x00 s
  | .eor s => aluOpcode 0x40 s
  | .bit (.imm _) => some 0x89
  | .bit (.mem (.dp _)) => some 0x24
  | .bit (.mem (.abs _)) => some 0x2C
  | .bit (.mem (.dpx _)) => some 0x34
  | .bit (.mem (.absx _)) => some 0x3C
  | .bit (.mem _) => none
  | .tsb (.dp _) => some 0x04
  | .tsb (.abs _) => some 0x0C
  | .tsb _ => none
  | .trb (.dp _) => some 0x14
  | .trb (.abs _) => some 0x1C
  | .trb _ => none
  | .inc .acc => some 0x1A
  | .inc (.mem m) => shiftOpcode 0xE0 (.mem m)
  | .dec .acc => some 0x3A
  | .dec (.mem m) => shiftOpcode 0xC0 (.mem m)
  | .inx => some 0xE8
  | .iny => some 0xC8
  | .dex => some 0xCA
  | .dey => some 0x88
  | .asl r => shiftOpcode 0x00 r
  | .lsr r => shiftOpcode 0x40 r
  | .rol r => shiftOpcode 0x20 r
  | .ror r => shiftOpcode 0x60 r
  | .bpl _ => some 0x10
  | .bmi _ => some 0x30
  | .bvc _ => some 0x50
  | .bvs _ => some 0x70
  | .bcc _ => some 0x90
  | .bcs _ => some 0xB0
  | .bne _ => some 0xD0
  | .beq _ => some 0xF0
  | .bra _ => some 0x80
  | .brl _ => some 0x82
  | .jmp _ => some 0x4C
  | .jmpInd _ => some 0x6C
  | .jmpIndX _ => some 0x7C
  | .jml _ => some 0x5C
  | .jmlInd _ => some 0xDC
  | .jsr _ => some 0x20
  | .jsrIndX _ => some 0xFC
  | .jsl _ => some 0x22
  | .rts => some 0x60
  | .rtl => some 0x6B
  | .rti => some 0x40
  | .brk _ => some 0x00
  | .cop _ => some 0x02
  | .clc => some 0x18
  | .sec => some 0x38
  | .cli => some 0x58
  | .sei => some 0x78
  | .cld => some 0xD8
  | .sed => some 0xF8
  | .clv => some 0xB8
  | .rep _ => some 0xC2
  | .sep _ => some 0xE2
  | .xce => some 0xFB
  | .nop => some 0xEA
  | .wdm _ => some 0x42
  | .wai => some 0xCB
  | .stp => some 0xDB
  | .aMovA s => aAccOpcode 0xE0 s
  | .aMovX (.imm _) => some 0xCD
  | .aMovX (.mem (.d _)) => some 0xF8
  | .aMovX (.mem (.dy _)) => some 0xF9
  | .aMovX (.mem (.abs _)) => some 0xE9
  | .aMovX (.mem _) => none
  | .aMovY (.imm _) => some 0x8D
  | .aMovY (.mem (.d _)) => some 0xEB
  | .aMovY (.mem (.dx _)) => some 0xFB
  | .aMovY (.mem (.abs _)) => some 0xEC
  | .aMovY (.mem _) => none
  | .aMovStA (.d _) => some 0xC4
  | .aMovStA (.dx _) => some 0xD4
  | .aMovStA (.abs _) => some 0xC5
  | .aMovStA (.absx _) => some 0xD5
  | .aMovStA (.absy _) => some 0xD6
  | .aMovStA .ix => some 0xC6
  | .aMovStA (.idx _) => some 0xC7
  | .aMovStA (.idy _) => some 0xD7
  | .aMovStA (.dy _) => none
  | .aMovStX (.d _) => some 0xD8
  | .aMovStX (.dy _) => some 0xD9
  | .aMovStX (.abs _) => some 0xC9
  | .aMovStX _ => none
  | .aMovStY (.d _) => some 0xCB
  | .aMovStY (.dx _) => some 0xDB
  | .aMovStY (.abs _) => some 0xCC
  | .aMovStY _ => none
  | .aMovXA => some 0x5D
  | .aMovAX => some 0x7D
  | .aMovYA => some 0xFD
  | .aMovAY => some 0xDD
  | .aMovXSp => some 0x9D
  | .aMovSpX => some 0xBD
  | .aMovDD _ _ => some 0xFA
  | .aMovDI _ _ => some 0x8F
  | .aMovIncA => some 0xAF
  | .aMovAInc => some 0xBF
  | .aAdc o => aAluOpcode 0x80 o
  | .aSbc o => aAluOpcode 0xA0 o
  | .aCmp o => aAluOpcode 0x60 o
  | .aCmpX (.imm _) => some 0xC8
  | .aCmpX (.mem (.d _)) => some 0x3E
  | .aCmpX (.mem (.abs _)) => some 0x1E
  | .aCmpX (.mem _) => none
  | .aCmpY (.imm _) => some 0xAD
  | .aCmpY (.mem (.d _)) => some 0x7E
  | .aCmpY (.mem (.abs _)) => some 0x5E
  | .aCmpY (.mem _) => none
  | .aAnd o => aAluOpcode 0x20 o
  | .aOr o => aAluOpcode 0x00 o
  | .aEor o => aAluOpcode 0x40 o
  | .aInc .a => some 0xBC
  | .aInc .x => some 0x3D
  | .aInc .y => some 0xFC
  | .aInc (.mem m) => aShiftOpcode 0xA0 (.mem m)
  | .aDec .a => some 0x9C
  | .aDec .x => some 0x1D
  | .aDec .y => some 0xDC
  | .aDec (.mem m) => aShiftOpcode 0x80 (.mem m)
  | .aAsl r => aShiftOpcode 0x00 r
  | .aLsr r => aShiftOpcode 0x40 r
  | .aRol r => aShiftOpcode 0x20 r
  | .aRor r => aShiftOpcode 0x60 r
  | .aXcn => some 0x9F
  | .aMovwLd _ => some 0xBA
  | .aMovwSt _ => some 0xDA
  | .aIncw _ => some 0x3A
  | .aDecw _ => some 0x1A
  | .aAddw _ => some 0x7A
  | .aSubw _ => some 0x9A
  | .aCmpw _ => some 0x5A
  | .aMul => some 0xCF
  | .aDiv => some 0x9E
  | .aDaa => some 0xDF
  | .aDas => some 0xBE
  | .aBra _ => some 0x2F
  | .aBeq _ => some 0xF0
  | .aBne _ => some 0xD0
  | .aBcs _ => some 0xB0
  | .aBcc _ => some 0x90
  | .aBvs _ => some 0x70
  | .aBvc _ => some 0x50
  | .aBmi _ => some 0x30
  | .aBpl _ => some 0x10
  | .aBbs b _ _ => some (bitOpcode 0x03 b)
  | .aBbc b _ _ => some (bitOpcode 0x13 b)
  | .aCbne _ _ => some 0x2E
  | .aCbneX _ _ => some 0xDE
  | .aDbnz _ _ => some 0x6E
  | .aDbnzY _ => some 0xFE
  | .aJmp _ => some 0x5F
  | .aJmpInd _ => some 0x1F
  | .aCall _ => some 0x3F
  | .aPcall _ => some 0x4F
  | .aTcall n => some ((n.setWidth 8) <<< 4 ||| 0x01)
  | .aBrk => some 0x0F
  | .aRet => some 0x6F
  | .aReti => some 0x7F
  | .aPush .a => some 0x2D
  | .aPush .x => some 0x4D
  | .aPush .y => some 0x6D
  | .aPush .psw => some 0x0D
  | .aPop .a => some 0xAE
  | .aPop .x => some 0xCE
  | .aPop .y => some 0xEE
  | .aPop .psw => some 0x8E
  | .aSet1 b _ => some (bitOpcode 0x02 b)
  | .aClr1 b _ => some (bitOpcode 0x12 b)
  | .aTset1 _ => some 0x0E
  | .aTclr1 _ => some 0x4E
  | .aAnd1 neg _ _ => some (if neg then 0x6A else 0x4A)
  | .aOr1 neg _ _ => some (if neg then 0x2A else 0x0A)
  | .aEor1 _ _ => some 0x8A
  | .aNot1 _ _ => some 0xEA
  | .aMov1Ld _ _ => some 0xAA
  | .aMov1St _ _ => some 0xCA
  | .aClrc => some 0x60
  | .aSetc => some 0x80
  | .aNotc => some 0xED
  | .aClrv => some 0xE0
  | .aClrp => some 0x20
  | .aSetp => some 0x40
  | .aEi => some 0xA0
  | .aDi => some 0xC0
  | .aNop => some 0x00
  | .aSleep => some 0xEF
  | .aStop => some 0xFF

/-- The operand bytes of a 16-bit field, low byte first (R301). -/
def word16Bytes (w : Word) : List Byte := [w.extractLsb' 0 8, w.extractLsb' 8 8]

/-- The operand bytes of a 24-bit field, low byte first (R301). -/
def long24Bytes (a : Addr) : List Byte := [a.extractLsb' 0 8, a.extractLsb' 8 8, a.extractLsb' 16 8]

/-- The operand bytes of an immediate. -/
def Imm.bytes : Imm → List Byte
  | .b8 v => [v]
  | .b16 v => word16Bytes v

/-- The operand bytes of a memory operand (R302). -/
def AddrMode.bytes : AddrMode → List Byte
  | .dp o | .dpx o | .dpy o | .dpind o | .dpxind o | .dpindy o | .dpindl o | .dpindly o | .sr o | .sriy o => [o]
  | .abs a | .absx a | .absy a => word16Bytes a
  | .long a | .longx a => long24Bytes a

/-- The operand bytes of a source operand. -/
def Src.bytes : Src → List Byte
  | .imm v => v.bytes
  | .mem m => m.bytes

/-- The operand bytes of a read-modify-write operand. -/
def Rmw.bytes : Rmw → List Byte
  | .acc => []
  | .mem m => m.bytes

/-- The operand bytes of an audio memory operand (R311). -/
def AMode.bytes : AMode → List Byte
  | .d o | .dx o | .dy o | .idx o | .idy o => [o]
  | .abs a | .absx a | .absy a => word16Bytes a
  | .ix => []

/-- The operand bytes of an audio source operand. -/
def ASrc.bytes : ASrc → List Byte
  | .imm i => [i]
  | .mem m => m.bytes

/-- The operand bytes of an audio ALU operand pair: source first, immediate first (R312). -/
def AAlu.bytes : AAlu → List Byte
  | .acc s => s.bytes
  | .dd src dst => [src, dst]
  | .dImm i d => [i, d]
  | .xy => []

/-- The operand bytes of an audio read-modify-write operand. -/
def ARmw.bytes : ARmw → List Byte
  | .a | .x | .y => []
  | .mem m => m.bytes

/-- The operand bytes of an `m.b` operand: bits 12-0 the address, bits 15-13 the bit number (R312). -/
def mbBytes (m : BitVec 13) (b : BitVec 3) : List Byte := word16Bytes (b ++ m)

/-- The bytes after the opcode. -/
def Instr.operandBytes : Instr → List Byte
  | .lda s | .ldx s | .ldy s | .adc s | .sbc s | .cmp s | .cpx s | .cpy s | .and s | .ora s | .eor s | .bit s => s.bytes
  | .sta m | .stx m | .sty m | .stz m | .tsb m | .trb m => m.bytes
  | .inc r | .dec r | .asl r | .lsr r | .rol r | .ror r => r.bytes
  | .mvn dst src | .mvp dst src => [dst, src]
  | .pea v | .per v | .brl v | .jmp v | .jmpInd v | .jmpIndX v | .jmlInd v | .jsr v | .jsrIndX v => word16Bytes v
  | .jml a | .jsl a => long24Bytes a
  | .pei o => [o]
  | .bpl r | .bmi r | .bvc r | .bvs r | .bcc r | .bcs r | .bne r | .beq r | .bra r => [r]
  | .brk v | .cop v | .rep v | .sep v | .wdm v => [v]
  | .tax | .tay | .txa | .tya | .txy | .tyx | .tsx | .txs | .tcs | .tsc | .tcd | .tdc | .xba
  | .pha | .phx | .phy | .php | .phb | .phk | .phd | .pla | .plx | .ply | .plp | .plb | .pld
  | .inx | .iny | .dex | .dey | .rts | .rtl | .rti
  | .clc | .sec | .cli | .sei | .cld | .sed | .clv | .xce | .nop | .wai | .stp => []
  | .aMovA s | .aMovX s | .aMovY s | .aCmpX s | .aCmpY s => s.bytes
  | .aMovStA m | .aMovStX m | .aMovStY m => m.bytes
  | .aMovDD src dst => [src, dst]
  | .aMovDI i d => [i, d]
  | .aAdc o | .aSbc o | .aCmp o | .aAnd o | .aOr o | .aEor o => o.bytes
  | .aInc r | .aDec r | .aAsl r | .aLsr r | .aRol r | .aRor r => r.bytes
  | .aMovwLd o | .aMovwSt o | .aIncw o | .aDecw o | .aAddw o | .aSubw o | .aCmpw o => [o]
  | .aBra r | .aBeq r | .aBne r | .aBcs r | .aBcc r | .aBvs r | .aBvc r | .aBmi r | .aBpl r | .aDbnzY r => [r]
  | .aBbs _ d r | .aBbc _ d r | .aCbne d r | .aCbneX d r | .aDbnz d r => [d, r]
  | .aJmp a | .aJmpInd a | .aCall a | .aTset1 a | .aTclr1 a => word16Bytes a
  | .aPcall u => [u]
  | .aSet1 _ d | .aClr1 _ d => [d]
  | .aAnd1 _ m b | .aOr1 _ m b | .aEor1 m b | .aNot1 m b | .aMov1Ld m b | .aMov1St m b => mbBytes m b
  | .aMovXA | .aMovAX | .aMovYA | .aMovAY | .aMovXSp | .aMovSpX | .aMovIncA | .aMovAInc
  | .aXcn | .aMul | .aDiv | .aDaa | .aDas | .aTcall _ | .aBrk | .aRet | .aReti | .aPush _ | .aPop _
  | .aClrc | .aSetc | .aNotc | .aClrv | .aClrp | .aSetp | .aEi | .aDi | .aNop | .aSleep | .aStop => []

/-- The bytes of an instruction: opcode, then operands; no byte for a form the mnemonic does not have. -/
def encode (i : Instr) : List Byte :=
  match i.opcode? with
  | some op => op :: i.operandBytes
  | none => []

end Sys2Proof
end

