-- ==== Sys2Proof/Machine/Cycles.lean ====
section
/-!
DEFINITION. The cycle costs of both CPUs: the default tables of `P_CPU_CYCLES` and `P_SPC_CYCLES` (R1070, R1071), and the costs
under the parameters (log 5).
-/

namespace Sys2Proof.Machine

/-- What an instruction's execution tells its cost (R1070). -/
structure Facts where
  /-- "The index crosses a page" (R407, R416). -/
  indexCrosses  : Bool
  /-- The branch is taken. -/
  taken         : Bool
  /-- "The branch crosses a page" (R423). -/
  branchCrosses : Bool
deriving DecidableEq, Repr

/-- The facts of an instruction that neither indexes over a page nor branches. -/
def Facts.plain : Facts := { indexCrosses := false, taken := false, branchCrosses := false }

/-- The entries of R1070's column "added cycles". -/
inductive Added where
  /-- +1 if E=0 -/
  | native
  /-- +1 if M=0 -/
  | m1
  /-- +2 if M=0 -/
  | m2
  /-- +1 if X=0 -/
  | x1
  /-- +1 if DL!=0 -/
  | dl
  /-- +1 if X=0 or the index crosses a page -/
  | index
  /-- +1 if taken -/
  | taken
  /-- +1 more if taken, E=1 and the branch crosses a page -/
  | takenPage
  /-- +1 if E=1 and the branch crosses a page -/
  | page
deriving DecidableEq, Repr

/-- A row of R1070: base cost and added cycles. -/
structure CycleRow where
  base  : Nat
  added : List Added
deriving DecidableEq, Repr

/-- The cycles an entry adds, with the registers as before the instruction (R1070). -/
def addedCost (b : Cpu) (f : Facts) : Added → Nat
  | .native => if b.e then 0 else 1
  | .m1 => if b.p.getLsbD 5 then 0 else 1
  | .m2 => if b.p.getLsbD 5 then 0 else 2
  | .x1 => if b.p.getLsbD 4 then 0 else 1
  | .dl => if b.d.extractLsb' 0 8 = 0 then 0 else 1
  | .index => if !b.p.getLsbD 4 || f.indexCrosses then 1 else 0
  | .taken => if f.taken then 1 else 0
  | .takenPage => if f.taken && b.e && f.branchCrosses then 1 else 0
  | .page => if b.e && f.branchCrosses then 1 else 0

/-- Row 0x of R1070. -/
def cycles0 : List CycleRow :=
  [⟨7, [.native]⟩, ⟨6, [.m1, .dl]⟩, ⟨7, [.native]⟩, ⟨4, [.m1]⟩,
   ⟨5, [.m2, .dl]⟩, ⟨3, [.m1, .dl]⟩, ⟨5, [.m2, .dl]⟩, ⟨6, [.m1, .dl]⟩,
   ⟨3, []⟩, ⟨2, [.m1]⟩, ⟨2, []⟩, ⟨4, []⟩,
   ⟨6, [.m2]⟩, ⟨4, [.m1]⟩, ⟨6, [.m2]⟩, ⟨5, [.m1]⟩]

/-- Row 1x of R1070. -/
def cycles1 : List CycleRow :=
  [⟨2, [.taken, .takenPage]⟩, ⟨5, [.m1, .dl, .index]⟩, ⟨5, [.m1, .dl]⟩, ⟨7, [.m1]⟩,
   ⟨5, [.m2, .dl]⟩, ⟨4, [.m1, .dl]⟩, ⟨6, [.m2, .dl]⟩, ⟨6, [.m1, .dl]⟩,
   ⟨2, []⟩, ⟨4, [.m1, .index]⟩, ⟨2, []⟩, ⟨2, []⟩,
   ⟨6, [.m2]⟩, ⟨4, [.m1, .index]⟩, ⟨7, [.m2]⟩, ⟨5, [.m1]⟩]

/-- Row 2x of R1070. -/
def cycles2 : List CycleRow :=
  [⟨6, []⟩, ⟨6, [.m1, .dl]⟩, ⟨8, []⟩, ⟨4, [.m1]⟩,
   ⟨3, [.m1, .dl]⟩, ⟨3, [.m1, .dl]⟩, ⟨5, [.m2, .dl]⟩, ⟨6, [.m1, .dl]⟩,
   ⟨4, []⟩, ⟨2, [.m1]⟩, ⟨2, []⟩, ⟨5, []⟩,
   ⟨4, [.m1]⟩, ⟨4, [.m1]⟩, ⟨6, [.m2]⟩, ⟨5, [.m1]⟩]

/-- Row 3x of R1070. -/
def cycles3 : List CycleRow :=
  [⟨2, [.taken, .takenPage]⟩, ⟨5, [.m1, .dl, .index]⟩, ⟨5, [.m1, .dl]⟩, ⟨7, [.m1]⟩,
   ⟨4, [.m1, .dl]⟩, ⟨4, [.m1, .dl]⟩, ⟨6, [.m2, .dl]⟩, ⟨6, [.m1, .dl]⟩,
   ⟨2, []⟩, ⟨4, [.m1, .index]⟩, ⟨2, []⟩, ⟨2, []⟩,
   ⟨4, [.m1, .index]⟩, ⟨4, [.m1, .index]⟩, ⟨7, [.m2]⟩, ⟨5, [.m1]⟩]

/-- Row 4x of R1070. -/
def cycles4 : List CycleRow :=
  [⟨6, [.native]⟩, ⟨6, [.m1, .dl]⟩, ⟨2, []⟩, ⟨4, [.m1]⟩,
   ⟨7, []⟩, ⟨3, [.m1, .dl]⟩, ⟨5, [.m2, .dl]⟩, ⟨6, [.m1, .dl]⟩,
   ⟨3, [.m1]⟩, ⟨2, [.m1]⟩, ⟨2, []⟩, ⟨3, []⟩,
   ⟨3, []⟩, ⟨4, [.m1]⟩, ⟨6, [.m2]⟩, ⟨5, [.m1]⟩]

/-- Row 5x of R1070. -/
def cycles5 : List CycleRow :=
  [⟨2, [.taken, .takenPage]⟩, ⟨5, [.m1, .dl, .index]⟩, ⟨5, [.m1, .dl]⟩, ⟨7, [.m1]⟩,
   ⟨7, []⟩, ⟨4, [.m1, .dl]⟩, ⟨6, [.m2, .dl]⟩, ⟨6, [.m1, .dl]⟩,
   ⟨2, []⟩, ⟨4, [.m1, .index]⟩, ⟨3, [.x1]⟩, ⟨2, []⟩,
   ⟨4, []⟩, ⟨4, [.m1, .index]⟩, ⟨7, [.m2]⟩, ⟨5, [.m1]⟩]

/-- Row 6x of R1070. -/
def cycles6 : List CycleRow :=
  [⟨6, []⟩, ⟨6, [.m1, .dl]⟩, ⟨6, []⟩, ⟨4, [.m1]⟩,
   ⟨3, [.m1, .dl]⟩, ⟨3, [.m1, .dl]⟩, ⟨5, [.m2, .dl]⟩, ⟨6, [.m1, .dl]⟩,
   ⟨4, [.m1]⟩, ⟨2, [.m1]⟩, ⟨2, []⟩, ⟨6, []⟩,
   ⟨5, []⟩, ⟨4, [.m1]⟩, ⟨6, [.m2]⟩, ⟨5, [.m1]⟩]

/-- Row 7x of R1070. -/
def cycles7 : List CycleRow :=
  [⟨2, [.taken, .takenPage]⟩, ⟨5, [.m1, .dl, .index]⟩, ⟨5, [.m1, .dl]⟩, ⟨7, [.m1]⟩,
   ⟨4, [.m1, .dl]⟩, ⟨4, [.m1, .dl]⟩, ⟨6, [.m2, .dl]⟩, ⟨6, [.m1, .dl]⟩,
   ⟨2, []⟩, ⟨4, [.m1, .index]⟩, ⟨4, [.x1]⟩, ⟨2, []⟩,
   ⟨6, []⟩, ⟨4, [.m1, .index]⟩, ⟨7, [.m2]⟩, ⟨5, [.m1]⟩]

/-- Row 8x of R1070. -/
def cycles8 : List CycleRow :=
  [⟨3, [.page]⟩, ⟨6, [.m1, .dl]⟩, ⟨4, []⟩, ⟨4, [.m1]⟩,
   ⟨3, [.x1, .dl]⟩, ⟨3, [.m1, .dl]⟩, ⟨3, [.x1, .dl]⟩, ⟨6, [.m1, .dl]⟩,
   ⟨2, []⟩, ⟨2, [.m1]⟩, ⟨2, []⟩, ⟨3, []⟩,
   ⟨4, [.x1]⟩, ⟨4, [.m1]⟩, ⟨4, [.x1]⟩, ⟨5, [.m1]⟩]

/-- Row 9x of R1070. -/
def cycles9 : List CycleRow :=
  [⟨2, [.taken, .takenPage]⟩, ⟨6, [.m1, .dl]⟩, ⟨5, [.m1, .dl]⟩, ⟨7, [.m1]⟩,
   ⟨4, [.x1, .dl]⟩, ⟨4, [.m1, .dl]⟩, ⟨4, [.x1, .dl]⟩, ⟨6, [.m1, .dl]⟩,
   ⟨2, []⟩, ⟨5, [.m1]⟩, ⟨2, []⟩, ⟨2, []⟩,
   ⟨4, [.m1]⟩, ⟨5, [.m1]⟩, ⟨5, [.m1]⟩, ⟨5, [.m1]⟩]

/-- Row Ax of R1070. -/
def cyclesA : List CycleRow :=
  [⟨2, [.x1]⟩, ⟨6, [.m1, .dl]⟩, ⟨2, [.x1]⟩, ⟨4, [.m1]⟩,
   ⟨3, [.x1, .dl]⟩, ⟨3, [.m1, .dl]⟩, ⟨3, [.x1, .dl]⟩, ⟨6, [.m1, .dl]⟩,
   ⟨2, []⟩, ⟨2, [.m1]⟩, ⟨2, []⟩, ⟨4, []⟩,
   ⟨4, [.x1]⟩, ⟨4, [.m1]⟩, ⟨4, [.x1]⟩, ⟨5, [.m1]⟩]

/-- Row Bx of R1070. -/
def cyclesB : List CycleRow :=
  [⟨2, [.taken, .takenPage]⟩, ⟨5, [.m1, .dl, .index]⟩, ⟨5, [.m1, .dl]⟩, ⟨7, [.m1]⟩,
   ⟨4, [.x1, .dl]⟩, ⟨4, [.m1, .dl]⟩, ⟨4, [.x1, .dl]⟩, ⟨6, [.m1, .dl]⟩,
   ⟨2, []⟩, ⟨4, [.m1, .index]⟩, ⟨2, []⟩, ⟨2, []⟩,
   ⟨4, [.x1, .index]⟩, ⟨4, [.m1, .index]⟩, ⟨4, [.x1, .index]⟩, ⟨5, [.m1]⟩]

/-- Row Cx of R1070. -/
def cyclesC : List CycleRow :=
  [⟨2, [.x1]⟩, ⟨6, [.m1, .dl]⟩, ⟨3, []⟩, ⟨4, [.m1]⟩,
   ⟨3, [.x1, .dl]⟩, ⟨3, [.m1, .dl]⟩, ⟨5, [.m2, .dl]⟩, ⟨6, [.m1, .dl]⟩,
   ⟨2, []⟩, ⟨2, [.m1]⟩, ⟨2, []⟩, ⟨3, []⟩,
   ⟨4, [.x1]⟩, ⟨4, [.m1]⟩, ⟨6, [.m2]⟩, ⟨5, [.m1]⟩]

/-- Row Dx of R1070. -/
def cyclesD : List CycleRow :=
  [⟨2, [.taken, .takenPage]⟩, ⟨5, [.m1, .dl, .index]⟩, ⟨5, [.m1, .dl]⟩, ⟨7, [.m1]⟩,
   ⟨6, [.dl]⟩, ⟨4, [.m1, .dl]⟩, ⟨6, [.m2, .dl]⟩, ⟨6, [.m1, .dl]⟩,
   ⟨2, []⟩, ⟨4, [.m1, .index]⟩, ⟨3, [.x1]⟩, ⟨3, []⟩,
   ⟨6, []⟩, ⟨4, [.m1, .index]⟩, ⟨7, [.m2]⟩, ⟨5, [.m1]⟩]

/-- Row Ex of R1070. -/
def cyclesE : List CycleRow :=
  [⟨2, [.x1]⟩, ⟨6, [.m1, .dl]⟩, ⟨3, []⟩, ⟨4, [.m1]⟩,
   ⟨3, [.x1, .dl]⟩, ⟨3, [.m1, .dl]⟩, ⟨5, [.m2, .dl]⟩, ⟨6, [.m1, .dl]⟩,
   ⟨2, []⟩, ⟨2, [.m1]⟩, ⟨2, []⟩, ⟨3, []⟩,
   ⟨4, [.x1]⟩, ⟨4, [.m1]⟩, ⟨6, [.m2]⟩, ⟨5, [.m1]⟩]

/-- Row Fx of R1070. -/
def cyclesF : List CycleRow :=
  [⟨2, [.taken, .takenPage]⟩, ⟨5, [.m1, .dl, .index]⟩, ⟨5, [.m1, .dl]⟩, ⟨7, [.m1]⟩,
   ⟨5, []⟩, ⟨4, [.m1, .dl]⟩, ⟨6, [.m2, .dl]⟩, ⟨6, [.m1, .dl]⟩,
   ⟨2, []⟩, ⟨4, [.m1, .index]⟩, ⟨4, [.x1]⟩, ⟨2, []⟩,
   ⟨8, []⟩, ⟨4, [.m1, .index]⟩, ⟨7, [.m2]⟩, ⟨5, [.m1]⟩]

/-- R1070, row by row. -/
def cycleRows : List (List CycleRow) :=
  [cycles0, cycles1, cycles2, cycles3, cycles4, cycles5, cycles6, cycles7, cycles8, cycles9, cyclesA, cyclesB, cyclesC, cyclesD, cyclesE, cyclesF]

/-- R1070's entry for an opcode. -/
def cycleRow (op : Byte) : CycleRow := ((cycleRows.getD (op.toNat / 16) []).getD (op.toNat % 16) ⟨0, []⟩)

/-- The default of `P_CPU_CYCLES(op, state before, facts)` (R1070). -/
def cpuCycles (op : Byte) (b : Cpu) (f : Facts) : Nat :=
  (cycleRow op).base + ((cycleRow op).added.map (addedCost b f)).sum

/-- The key a cost is listed under (R1070, R1090; log 5). -/
def cpuCostKey (op : Byte) (b : Cpu) (f : Facts) : CpuCostKey :=
  { op := op, e := b.e, p := b.p, dlNonzero := decide (b.d.extractLsb' 0 8 ≠ 0)
    indexCrosses := f.indexCrosses, taken := f.taken, branchCrosses := f.branchCrosses }

/-- `P_CPU_CYCLES(op, state before, facts)`: the cost the parameter lists, else the default's (R11, R1070, R1090; log 5). -/
def cpuCost (cfg : Config) (op : Byte) (b : Cpu) (f : Facts) : Nat :=
  (cfg.cpuCosts.lookup (cpuCostKey op b f)).getD (cpuCycles op b f)

/-- The cost of a main-CPU instruction, by its opcode (R400, R1070). -/
def instrCost (cfg : Config) (i : Instr) (b : Cpu) (f : Facts) : Nat :=
  match i.opcode? with
  | some op => cpuCost cfg op b f
  | none => 0

/-- Row 0x of R1071. -/
def spcCycles0 : List (Nat × Nat) :=
  [(2, 2), (8, 8), (4, 4), (5, 7), (3, 3), (4, 4), (3, 3), (6, 6), (2, 2), (6, 6), (5, 5), (4, 4), (5, 5), (4, 4), (6, 6), (8, 8)]

/-- Row 1x of R1071. -/
def spcCycles1 : List (Nat × Nat) :=
  [(2, 4), (8, 8), (4, 4), (5, 7), (4, 4), (5, 5), (5, 5), (6, 6), (5, 5), (5, 5), (6, 6), (5, 5), (2, 2), (2, 2), (4, 4), (6, 6)]

/-- Row 2x of R1071. -/
def spcCycles2 : List (Nat × Nat) :=
  [(2, 2), (8, 8), (4, 4), (5, 7), (3, 3), (4, 4), (3, 3), (6, 6), (2, 2), (6, 6), (5, 5), (4, 4), (5, 5), (4, 4), (5, 7), (4, 4)]

/-- Row 3x of R1071. -/
def spcCycles3 : List (Nat × Nat) :=
  [(2, 4), (8, 8), (4, 4), (5, 7), (4, 4), (5, 5), (5, 5), (6, 6), (5, 5), (5, 5), (6, 6), (5, 5), (2, 2), (2, 2), (3, 3), (8, 8)]

/-- Row 4x of R1071. -/
def spcCycles4 : List (Nat × Nat) :=
  [(2, 2), (8, 8), (4, 4), (5, 7), (3, 3), (4, 4), (3, 3), (6, 6), (2, 2), (6, 6), (4, 4), (4, 4), (5, 5), (4, 4), (6, 6), (6, 6)]

/-- Row 5x of R1071. -/
def spcCycles5 : List (Nat × Nat) :=
  [(2, 4), (8, 8), (4, 4), (5, 7), (4, 4), (5, 5), (5, 5), (6, 6), (5, 5), (5, 5), (4, 4), (5, 5), (2, 2), (2, 2), (4, 4), (3, 3)]

/-- Row 6x of R1071. -/
def spcCycles6 : List (Nat × Nat) :=
  [(2, 2), (8, 8), (4, 4), (5, 7), (3, 3), (4, 4), (3, 3), (6, 6), (2, 2), (6, 6), (4, 4), (4, 4), (5, 5), (4, 4), (5, 7), (5, 5)]

/-- Row 7x of R1071. -/
def spcCycles7 : List (Nat × Nat) :=
  [(2, 4), (8, 8), (4, 4), (5, 7), (4, 4), (5, 5), (5, 5), (6, 6), (5, 5), (5, 5), (5, 5), (5, 5), (2, 2), (2, 2), (3, 3), (6, 6)]

/-- Row 8x of R1071. -/
def spcCycles8 : List (Nat × Nat) :=
  [(2, 2), (8, 8), (4, 4), (5, 7), (3, 3), (4, 4), (3, 3), (6, 6), (2, 2), (6, 6), (5, 5), (4, 4), (5, 5), (2, 2), (4, 4), (5, 5)]

/-- Row 9x of R1071. -/
def spcCycles9 : List (Nat × Nat) :=
  [(2, 4), (8, 8), (4, 4), (5, 7), (4, 4), (5, 5), (5, 5), (6, 6), (5, 5), (5, 5), (5, 5), (5, 5), (2, 2), (2, 2), (12, 12), (5, 5)]

/-- Row Ax of R1071. -/
def spcCyclesA : List (Nat × Nat) :=
  [(3, 3), (8, 8), (4, 4), (5, 7), (3, 3), (4, 4), (3, 3), (6, 6), (2, 2), (6, 6), (4, 4), (4, 4), (5, 5), (2, 2), (4, 4), (4, 4)]

/-- Row Bx of R1071. -/
def spcCyclesB : List (Nat × Nat) :=
  [(2, 4), (8, 8), (4, 4), (5, 7), (4, 4), (5, 5), (5, 5), (6, 6), (5, 5), (5, 5), (5, 5), (5, 5), (2, 2), (2, 2), (3, 3), (4, 4)]

/-- Row Cx of R1071. -/
def spcCyclesC : List (Nat × Nat) :=
  [(3, 3), (8, 8), (4, 4), (5, 7), (4, 4), (5, 5), (4, 4), (7, 7), (2, 2), (5, 5), (6, 6), (4, 4), (5, 5), (2, 2), (4, 4), (9, 9)]

/-- Row Dx of R1071. -/
def spcCyclesD : List (Nat × Nat) :=
  [(2, 4), (8, 8), (4, 4), (5, 7), (5, 5), (6, 6), (6, 6), (7, 7), (4, 4), (5, 5), (5, 5), (5, 5), (2, 2), (2, 2), (6, 8), (3, 3)]

/-- Row Ex of R1071. -/
def spcCyclesE : List (Nat × Nat) :=
  [(2, 2), (8, 8), (4, 4), (5, 7), (3, 3), (4, 4), (3, 3), (6, 6), (2, 2), (4, 4), (5, 5), (3, 3), (4, 4), (3, 3), (4, 4), (3, 3)]

/-- Row Fx of R1071. -/
def spcCyclesF : List (Nat × Nat) :=
  [(2, 4), (8, 8), (4, 4), (5, 7), (4, 4), (5, 5), (5, 5), (6, 6), (3, 3), (4, 4), (5, 5), (4, 4), (2, 2), (2, 2), (4, 6), (3, 3)]

/-- R1071, row by row: not taken, taken. -/
def spcCycleRows : List (List (Nat × Nat)) :=
  [spcCycles0, spcCycles1, spcCycles2, spcCycles3, spcCycles4, spcCycles5, spcCycles6, spcCycles7, spcCycles8, spcCycles9, spcCyclesA, spcCyclesB, spcCyclesC, spcCyclesD, spcCyclesE, spcCyclesF]

/-- The default of `P_SPC_CYCLES(op, taken)` (R1071). -/
def spcCycles (op : Byte) (taken : Bool) : Nat :=
  let r := (spcCycleRows.getD (op.toNat / 16) []).getD (op.toNat % 16) (0, 0)
  if taken then r.2 else r.1

/-- `P_SPC_CYCLES(op, taken)`: the cost the parameter lists, else the default's (R11, R1071, R1090; log 5). -/
def spcCost (cfg : Config) (op : Byte) (taken : Bool) : Nat := (cfg.spcCosts.lookup ⟨op, taken⟩).getD (spcCycles op taken)

/-- The cost of an audio instruction, by its opcode (R650, R1071). -/
def audioCost (cfg : Config) (i : Instr) (taken : Bool) : Nat :=
  match i.opcode? with
  | some op => spcCost cfg op taken
  | none => 0

end Sys2Proof.Machine
end

