-- ==== Sys2Proof/Machine/AudioCpu.lean ====
section
/-!
DEFINITION. Running the audio CPU: one instruction (R650, R763) and the lazy catch-up (R993).
-/

namespace Sys2Proof.Machine

/-- What an audio instruction does after its bytes are fetched; `none` for the main CPU's instructions. -/
def audioBody : Instr → Option (A Bool)
  | .aMovA src => some (audioMovA src)
  | .aMovX src => some (audioMovX src)
  | .aMovY src => some (audioMovY src)
  | .aMovStA m => some (audioMovStA m)
  | .aMovStX m => some (audioMovStX m)
  | .aMovStY m => some (audioMovStY m)
  | .aMovXA => some audioMovXA
  | .aMovAX => some audioMovAX
  | .aMovYA => some audioMovYA
  | .aMovAY => some audioMovAY
  | .aMovXSp => some audioMovXSp
  | .aMovSpX => some audioMovSpX
  | .aMovDD src dst => some (audioMovDD src dst)
  | .aMovDI i d => some (audioMovDI i d)
  | .aMovIncA => some audioMovIncA
  | .aMovAInc => some audioMovAInc
  | .aAdc op => some (audioAdc op)
  | .aSbc op => some (audioSbc op)
  | .aCmp op => some (audioCmp op)
  | .aCmpX src => some (audioCmpX src)
  | .aCmpY src => some (audioCmpY src)
  | .aAnd op => some (audioAnd op)
  | .aOr op => some (audioOr op)
  | .aEor op => some (audioEor op)
  | .aInc op => some (audioInc op)
  | .aDec op => some (audioDec op)
  | .aAsl op => some (audioAsl op)
  | .aLsr op => some (audioLsr op)
  | .aRol op => some (audioRol op)
  | .aRor op => some (audioRor op)
  | .aXcn => some audioXcn
  | .aMovwLd o => some (audioMovwLd o)
  | .aMovwSt o => some (audioMovwSt o)
  | .aIncw o => some (audioIncw o)
  | .aDecw o => some (audioDecw o)
  | .aAddw o => some (audioAddw o)
  | .aSubw o => some (audioSubw o)
  | .aCmpw o => some (audioCmpw o)
  | .aMul => some audioMul
  | .aDiv => some audioDiv
  | .aDaa => some audioDaa
  | .aDas => some audioDas
  | .aBra rel => some (audioBra rel)
  | .aBeq rel => some (audioBeq rel)
  | .aBne rel => some (audioBne rel)
  | .aBcs rel => some (audioBcs rel)
  | .aBcc rel => some (audioBcc rel)
  | .aBvs rel => some (audioBvs rel)
  | .aBvc rel => some (audioBvc rel)
  | .aBmi rel => some (audioBmi rel)
  | .aBpl rel => some (audioBpl rel)
  | .aBbs b d rel => some (audioBbs b d rel)
  | .aBbc b d rel => some (audioBbc b d rel)
  | .aCbne d rel => some (audioCbne d rel)
  | .aCbneX d rel => some (audioCbneX d rel)
  | .aDbnz d rel => some (audioDbnz d rel)
  | .aDbnzY rel => some (audioDbnzY rel)
  | .aJmp a => some (audioJmp a)
  | .aJmpInd a => some (audioJmpInd a)
  | .aCall a => some (audioCall a)
  | .aPcall u => some (audioPcall u)
  | .aTcall n => some (audioTcall n)
  | .aBrk => some audioBrk
  | .aRet => some audioRet
  | .aReti => some audioReti
  | .aPush r => some (audioPush r)
  | .aPop r => some (audioPop r)
  | .aSet1 b d => some (audioSet1 b d)
  | .aClr1 b d => some (audioClr1 b d)
  | .aTset1 a => some (audioTset1 a)
  | .aTclr1 a => some (audioTclr1 a)
  | .aAnd1 neg m b => some (audioAnd1 neg m b)
  | .aOr1 neg m b => some (audioOr1 neg m b)
  | .aEor1 m b => some (audioEor1 m b)
  | .aNot1 m b => some (audioNot1 m b)
  | .aMov1Ld m b => some (audioMov1Ld m b)
  | .aMov1St m b => some (audioMov1St m b)
  | .aClrc => some audioClrc
  | .aSetc => some audioSetc
  | .aNotc => some audioNotc
  | .aClrv => some audioClrv
  | .aClrp => some audioClrp
  | .aSetp => some audioSetp
  | .aEi => some audioEi
  | .aDi => some audioDi
  | .aNop => some audioNop
  | .aSleep => some audioSleep
  | .aStop => some audioStop
  | .lda _ | .ldx _ | .ldy _ | .sta _ | .stx _ | .sty _ | .stz _ | .tax | .tay | .txa | .tya | .txy | .tyx | .tsx | .txs
  | .tcs | .tsc | .tcd | .tdc | .xba | .mvn _ _ | .mvp _ _ | .pha | .phx | .phy | .php | .phb | .phk | .phd | .pla | .plx
  | .ply | .plp | .plb | .pld | .pea _ | .pei _ | .per _ | .adc _ | .sbc _ | .cmp _ | .cpx _ | .cpy _ | .and _ | .ora _
  | .eor _ | .bit _ | .tsb _ | .trb _ | .inc _ | .dec _ | .inx | .iny | .dex | .dey | .asl _ | .lsr _ | .rol _ | .ror _
  | .bpl _ | .bmi _ | .bvc _ | .bvs _ | .bcc _ | .bcs _ | .bne _ | .beq _ | .bra _ | .brl _ | .jmp _ | .jmpInd _
  | .jmpIndX _ | .jml _ | .jmlInd _ | .jsr _ | .jsrIndX _ | .jsl _ | .rts | .rtl | .rti | .brk _ | .cop _ | .clc | .sec
  | .cli | .sei | .cld | .sed | .clv | .rep _ | .sep _ | .xce | .nop | .wdm _ | .wai | .stp => none

/-- An audio instruction from its body to its end: the effect, then `acycles <- start + cost` (R650). -/
def audioFinish (i : Instr) (body : A Bool) (cfg : Config) (u : Apu) : Apu :=
  let (taken, u') := (body.run cfg).run u
  { u' with acycles := u.acycles + audioCost cfg i taken }

/-- `n` audio fetches (R650). -/
def afetchN : Nat → A (List Byte)
  | 0 => return []
  | n + 1 => do
    let b ← afetch
    let bs ← afetchN n
    return b :: bs

/-- `cpu_audio_instruction()` (R650): the audio subsystem after one instruction, or the fatal condition of R763. That is raised once the
opcode has been fetched, from then on no operand byte is fetched and no state changes (R650, R763, R830; log 11). -/
def audioInstruction (cfg : Config) (u : Apu) : Apu × Option Stop :=
  let (op, u1) := (afetch.run cfg).run u
  if cfg.unimplSpcOps.contains op then (u1, some (.fatal (.unimplementedSpcOpcode (u1.pc - 1) op)))
  else
    let (bs, u2) := ((afetchN (((audioShape op).map (·.operands true true)).getD 0)).run cfg).run u1
    match (decodeAudio (op :: bs)).bind fun p => (audioBody p.1).map fun body => (p.1, body) with
    | some (i, body) => (audioFinish i body cfg u2, none)
    | none => (u, some (.refuse .undecodable))

/-- The translated timestamp: audio cycles of the master clock since `abase` (R993). -/
def audioTarget (cfg : Config) (u : Apu) (master : Nat) : Nat := (master - u.abase) * cfg.apuNum / cfg.apuDen

/-- The catch-up loop up to `target` (R993), at most so many rounds; running out is refused (log 18). -/
def audioRun (cfg : Config) (target : Nat) : Nat → Apu → Apu × Option Stop
  | 0, u => (u, if u.acycles < target then some (.refuse .catchUpEndless) else none)
  | n + 1, u =>
    if u.acycles < target then
      if u.halted then ({ u with acycles := target }, none)
      else
        match audioInstruction cfg u with
        | (u', none) => audioRun cfg target n u'
        | (u', some stop) => (u', some stop)
    else (u, none)

/-- Rounds that suffice for a catch-up to `target` where every instruction takes at least one cycle, with as many again as no run
of instructions that cost nothing could reach short of an endless one (log 18). -/
def audioFuel (target : Nat) (u : Apu) : Nat := 2 ^ 64 + (target - u.acycles)

/-- `CatchUp()` (R993). -/
def catchUp : M Unit := do
  let s ← get
  let target := audioTarget s.cfg s.apu s.sched.master
  let (u, stop) := audioRun s.cfg target (audioFuel target s.apu) s.apu
  set { s with apu := u }
  match stop with
  | none => pure ()
  | some r => throw r

end Sys2Proof.Machine
end

