-- ==== Sys2Proof/Machine/Ppu.lean ====
section
/-!
DEFINITION. The pixel processor: its register writes (R880 to R895, R965 to R968), the Mode-7 product (R967),
and the rendering of a line (R897 to R910).
-/

namespace Sys2Proof.Machine

/-! ## Register writes -/

/-- The OAM byte pointer OAMADDL/OAMADDH set (R881). -/
def oamPtrOf (oamaddr : BitVec 9) : BitVec 10 :=
  let p := 2 * oamaddr.toNat
  BitVec.ofNat 10 (if p < 512 then p else 512 + p % 32)

/-- OAMADDL (R881). -/
def writeOamAddL (v : Byte) (u : Ppu) : Ppu :=
  let a : BitVec 9 := u.oamaddr.extractLsb' 8 1 ++ v
  { u with oamaddr := a, oamptr := oamPtrOf a }

/-- OAMADDH (R881). -/
def writeOamAddH (v : Byte) (u : Ppu) : Ppu :=
  let a : BitVec 9 := v.extractLsb' 0 1 ++ u.oamaddr.extractLsb' 0 8
  { u with oamaddr := a, oamprio := v.getLsbD 7, oamptr := oamPtrOf a }

/-- OAMDATA (R882). -/
def writeOamData (v : Byte) (u : Ppu) : Ppu :=
  { u with oam := Cells.write 0 u.oamptr.toNat v u.oam, oamptr := BitVec.ofNat 10 ((u.oamptr.toNat + 1) % 544) }

/-- BGMODE (R883). -/
def writeBgMode (v : Byte) (u : Ppu) : Ppu :=
  { u with
    mode := v.extractLsb' 0 3
    bg3prio := v.getLsbD 3
    bg := { q0 := { u.bg.q0 with tilesize := v.getLsbD 4 }
            q1 := { u.bg.q1 with tilesize := v.getLsbD 5 }
            q2 := { u.bg.q2 with tilesize := v.getLsbD 6 }
            q3 := { u.bg.q3 with tilesize := v.getLsbD 7 } } }

/-- BG(n+1)SC (R885). -/
def writeBgSc (n : Nat) (v : Byte) (u : Ppu) : Ppu :=
  { u with bg := u.bg.on n (fun b => { b with scbase := v.extractLsb' 2 6, scsize := v.extractLsb' 0 2 }) }

/-- BG12NBA (n = 0) and BG34NBA (n = 2) (R886). -/
def writeBgNba (n : Nat) (v : Byte) (u : Ppu) : Ppu :=
  let bg := u.bg.on n fun b => { b with chbase := v.extractLsb' 0 4 }
  { u with bg := bg.on (n + 1) (fun b => { b with chbase := v.extractLsb' 4 4 }) }

/-- BG(n+1)HOFS: the two-write latch (R887). -/
def writeBgHofs (n : Nat) (v : Byte) (u : Ppu) : Ppu :=
  { u with
    bg := u.bg.on n (fun b => { b with hofs := mkWord v ((u.bgofsLatch &&& 0xF8) ||| (hi b.hofs &&& 0x07)) })
    bgofsLatch := v }

/-- BG(n+1)VOFS: the two-write latch (R888). -/
def writeBgVofs (n : Nat) (v : Byte) (u : Ppu) : Ppu :=
  { u with bg := u.bg.on n (fun b => { b with vofs := mkWord v u.bgofsLatch }), bgofsLatch := v }

/-- VMAIN (R889); the mark for a nonzero remap is raised where the bus writes it. -/
def writeVmain (v : Byte) (u : Ppu) : Ppu :=
  { u with vincHigh := v.getLsbD 7, vremap := v.extractLsb' 2 2, vincStep := v.extractLsb' 0 2 }

/-- The VRAM address step in words (R889). -/
def vramStep (vincStep : BitVec 2) : BitVec 15 :=
  match vincStep.toNat with
  | 0 => 1
  | 1 => 32
  | _ => 128

/-- VMADDL (R890). -/
def writeVmaddL (v : Byte) (u : Ppu) : Ppu := { u with vaddr := u.vaddr.extractLsb' 8 7 ++ v }

/-- VMADDH (R890). -/
def writeVmaddH (v : Byte) (u : Ppu) : Ppu := { u with vaddr := v.extractLsb' 0 7 ++ u.vaddr.extractLsb' 0 8 }

/-- VMDATAL (R891). -/
def writeVmdataL (v : Byte) (u : Ppu) : Ppu :=
  { u with
    vram := Cells.write 0 u.vaddr.toNat (setLo (Cells.read 0 u.vaddr.toNat u.vram) v) u.vram
    vaddr := if u.vincHigh then u.vaddr else u.vaddr + vramStep u.vincStep }

/-- VMDATAH (R891). -/
def writeVmdataH (v : Byte) (u : Ppu) : Ppu :=
  { u with
    vram := Cells.write 0 u.vaddr.toNat (setHi (Cells.read 0 u.vaddr.toNat u.vram) v) u.vram
    vaddr := if u.vincHigh then u.vaddr + vramStep u.vincStep else u.vaddr }

/-- CGADD (R893). -/
def writeCgAdd (v : Byte) (u : Ppu) : Ppu := { u with cgaddr := v, cglatchFull := false }

/-- CGDATA: two writes make one colour (R894). -/
def writeCgData (v : Byte) (u : Ppu) : Ppu :=
  if u.cglatchFull then
    { u with
      cgram := Cells.write 0 u.cgaddr.toNat ((v.extractLsb' 0 7 ++ u.cglow : BitVec 15)) u.cgram
      cgaddr := u.cgaddr + 1
      cglatchFull := false }
  else { u with cglow := v, cglatchFull := true }

/-- The value a Mode-7 register takes through the shared latch (R965, R968). -/
def m7Value (v : Byte) (u : Ppu) : Word := mkWord v u.m7latch

/-- M7A (R965). -/
def writeM7a (v : Byte) (u : Ppu) : Ppu := { u with m7a := m7Value v u, m7latch := v }

/-- M7B (R966). -/
def writeM7b (v : Byte) (u : Ppu) : Ppu := { u with m7b := m7Value v u, m7latch := v }

/-- A stored-only register written (R880, R884, R968). -/
def writeStored (f : PpuStored → PpuStored) (u : Ppu) : Ppu := { u with stored := f u.stored }

/-- A stored-only Mode-7 register written through the latch (R968). -/
def writeM7Stored (f : Word → PpuStored → PpuStored) (v : Byte) (u : Ppu) : Ppu :=
  { u with stored := f (m7Value v u) u.stored, m7latch := v }

/-- The Mode-7 product, 24 bits (R967). -/
def mpy (u : Ppu) : BitVec 24 := BitVec.ofInt 24 (u.m7a.toInt * (hi u.m7b).toInt)

/-- The effect of a write to a PPU register, offsets 0x2100 to 0x2133; `none` for every other offset (R231). -/
def ppuWrite? (off : Nat) (v : Byte) : Option (Ppu → Ppu) :=
  match off with
  | 0x2100 => some (writeStored fun r => { r with inidisp := v })
  | 0x2101 => some (writeStored fun r => { r with obsel := v })
  | 0x2102 => some (writeOamAddL v)
  | 0x2103 => some (writeOamAddH v)
  | 0x2104 => some (writeOamData v)
  | 0x2105 => some (writeBgMode v)
  | 0x2106 => some (writeStored fun r => { r with mosaic := v })
  | 0x2107 => some (writeBgSc 0 v)
  | 0x2108 => some (writeBgSc 1 v)
  | 0x2109 => some (writeBgSc 2 v)
  | 0x210A => some (writeBgSc 3 v)
  | 0x210B => some (writeBgNba 0 v)
  | 0x210C => some (writeBgNba 2 v)
  | 0x210D => some (writeBgHofs 0 v)
  | 0x210E => some (writeBgVofs 0 v)
  | 0x210F => some (writeBgHofs 1 v)
  | 0x2110 => some (writeBgVofs 1 v)
  | 0x2111 => some (writeBgHofs 2 v)
  | 0x2112 => some (writeBgVofs 2 v)
  | 0x2113 => some (writeBgHofs 3 v)
  | 0x2114 => some (writeBgVofs 3 v)
  | 0x2115 => some (writeVmain v)
  | 0x2116 => some (writeVmaddL v)
  | 0x2117 => some (writeVmaddH v)
  | 0x2118 => some (writeVmdataL v)
  | 0x2119 => some (writeVmdataH v)
  | 0x211A => some (writeStored fun r => { r with m7sel := v })
  | 0x211B => some (writeM7a v)
  | 0x211C => some (writeM7b v)
  | 0x211D => some (writeM7Stored (fun w r => { r with m7c := w }) v)
  | 0x211E => some (writeM7Stored (fun w r => { r with m7d := w }) v)
  | 0x211F => some (writeM7Stored (fun w r => { r with m7x := w }) v)
  | 0x2120 => some (writeM7Stored (fun w r => { r with m7y := w }) v)
  | 0x2121 => some (writeCgAdd v)
  | 0x2122 => some (writeCgData v)
  | 0x2123 => some (writeStored fun r => { r with w12sel := v })
  | 0x2124 => some (writeStored fun r => { r with w34sel := v })
  | 0x2125 => some (writeStored fun r => { r with wobjsel := v })
  | 0x2126 => some (writeStored fun r => { r with wh0 := v })
  | 0x2127 => some (writeStored fun r => { r with wh1 := v })
  | 0x2128 => some (writeStored fun r => { r with wh2 := v })
  | 0x2129 => some (writeStored fun r => { r with wh3 := v })
  | 0x212A => some (writeStored fun r => { r with wbglog := v })
  | 0x212B => some (writeStored fun r => { r with wobjlog := v })
  | 0x212C => some (fun u => { u with tm := v })
  | 0x212D => some (writeStored fun r => { r with ts := v })
  | 0x212E => some (writeStored fun r => { r with tmw := v })
  | 0x212F => some (writeStored fun r => { r with tsw := v })
  | 0x2130 => some (writeStored fun r => { r with cgwsel := v })
  | 0x2131 => some (writeStored fun r => { r with cgadsub := v })
  | 0x2132 => some (writeStored fun r => { r with coldata := v })
  | 0x2133 => some (writeStored fun r => { r with setini := v })
  | _ => none

/-! ## Rendering -/

/-- Which priority of tile-map entry a rank draws (R899). -/
inductive PriSel where
  | any
  | high
  | low
deriving DecidableEq, Repr

/-- `Ranks(mode, bg3prio)`, front first; layers are numbered from 0 (R903, R904, R905). -/
def ranks (mode : BitVec 3) (bg3prio : Bool) : List (Nat × PriSel) :=
  match mode.toNat with
  | 0 => [(0, .any), (1, .any), (2, .any)]
  | 1 =>
    if bg3prio then [(2, .high), (0, .high), (1, .high), (0, .low), (1, .low), (2, .low)]
    else [(0, .high), (1, .high), (0, .low), (1, .low), (2, .high), (2, .low)]
  | 3 => [(0, .any)]
  | _ => []

/-- Bits per pixel of layer `n` in a mode (R901). -/
def layerDepth (mode : BitVec 3) (n : Nat) : Nat :=
  match mode.toNat with
  | 1 => if n = 2 then 2 else 4
  | 3 => 8
  | _ => 2

/-- `MapAddr(n, X, Y)` (R906). -/
def mapAddr (b : BgLayer) (x y : Nat) : Nat :=
  let tx := x / 8 % 32
  let ty := y / 8 % 32
  let right := if x.testBit 8 then 0x400 else 0
  let q := match b.scsize.toNat with
    | 0 => 0
    | 1 => right
    | 2 => if y.testBit 8 then 0x400 else 0
    | _ => right + (if y.testBit 8 then 0x800 else 0)
  (b.scbase.toNat * 0x400 + q + ty * 32 + tx) % 0x8000

/-- The two bits plane pair `k` gives a pixel, in their places (R908). -/
def planePair (vram : Cells Word) (w c k : Nat) : Nat :=
  let word := Cells.read 0 ((w + 8 * k) % 0x8000) vram
  (word.getLsbD (7 - c)).toNat * 2 ^ (2 * k) + (word.getLsbD (15 - c)).toNat * 2 ^ (2 * k + 1)

/-- `Pixel(n, tile, X, Y, hf, vf)` (R908). -/
def pixel (vram : Cells Word) (b : BgLayer) (bpp tile x y : Nat) (hf vf : Bool) : Nat :=
  let r := if vf then 7 - y % 8 else y % 8
  let c := if hf then 7 - x % 8 else x % 8
  let w := b.chbase.toNat * 0x1000 + tile * 4 * bpp + r
  ((List.range (bpp / 2)).map (planePair vram w c)).sum

/-- `PalIndex(n, pal, px)` (R909). -/
def palIndex (mode : BitVec 3) (n pal px : Nat) : Byte :=
  BitVec.ofNat 8 <|
    match mode.toNat with
    | 0 => n * 32 + pal * 4 + px
    | 1 => if n = 2 then pal * 4 + px else pal * 16 + px
    | _ => px

/-- What a rank puts at pixel x of line y: a nonzero palette index, or 0 where it is transparent or of the other priority (R899, R907). -/
def layerPixel (u : Ppu) (n : Nat) (sel : PriSel) (y x : Nat) : Byte :=
  let b := u.bg.get n
  let sx := (x + b.hofs.toNat) % 0x400
  let sy := (y + b.vofs.toNat) % 0x400
  let e := Cells.read 0 (mapAddr b sx sy) u.vram
  let pri := e.getLsbD 13
  if (sel = .high && !pri) || (sel = .low && pri) then 0
  else
    let px := pixel u.vram b (layerDepth u.mode n) (e.extractLsb' 0 10).toNat sx sy (e.getLsbD 14) (e.getLsbD 15)
    if px = 0 then 0 else palIndex u.mode n (e.extractLsb' 10 3).toNat px

/-- `DrawLayer(n, sel, y)`: only pixels not yet claimed are claimed (R899). -/
def drawLayer (u : Ppu) (y : Nat) (line : List Byte) (rank : Nat × PriSel) : List Byte :=
  if u.tm.getLsbD rank.1 then
    List.zipWith (fun x old => if old ≠ 0 then old else layerPixel u rank.1 rank.2 y x) (List.range 256) line
  else line

/-- The per-scanline index buffer of line y (R898). -/
def lineIndices (u : Ppu) (y : Nat) : List Byte :=
  (ranks u.mode u.bg3prio).foldl (drawLayer u y) (List.replicate 256 0)

/-- A 5-bit component as 8 bits (R910). -/
def component8 (c : BitVec 5) : Byte := (c.setWidth 8) <<< 3 ||| (c.setWidth 8) >>> 2

/-- `rgba(c)` of a BGR555 colour (R910). -/
def rgba (c : BitVec 15) : Rgba :=
  { r := component8 (c.extractLsb' 0 5), g := component8 (c.extractLsb' 5 5), b := component8 (c.extractLsb' 10 5), a := 0xFF }

/-- `pcache[i]`, the palette cache entry, computed (R142). -/
def pcache (u : Ppu) (i : Byte) : Rgba := rgba (Cells.read 0 i.toNat u.cgram)

/-- A blank framebuffer row: what an unlisted row reads as (R153, R911). -/
def blankRow : List Rgba := List.replicate 256 Rgba.blank

/-- Line y drawn into the line buffer and row y of the buffer being written (R898). -/
def paintLine (u : Ppu) (y : Nat) : Ppu :=
  let line := lineIndices u y
  let row := line.map (pcache u)
  if u.wbuf then { u with line := line, fb1 := Cells.write blankRow y row u.fb1 }
  else { u with line := line, fb0 := Cells.write blankRow y row u.fb0 }

/-- A layer drawn on the line has 16x16 tiles selected (R902). -/
def tileSizeUsed (u : Ppu) : Bool :=
  (ranks u.mode u.bg3prio).any fun r => u.tm.getLsbD r.1 && (u.bg.get r.1).tilesize

/-- The marks a rendered line raises (R902, R903, R905). -/
def lineMarks (u : Ppu) (m : Marks) : Marks :=
  { m with
    obj := m.obj || u.tm.getLsbD 4
    tileSize := m.tileSize || tileSizeUsed u
    mode0Bg4 := m.mode0Bg4 || (decide (u.mode = 0) && u.tm.getLsbD 3)
    mode3Bg2 := m.mode3Bg2 || (decide (u.mode = 3) && u.tm.getLsbD 1) }

/-- `RenderLine(y)` (R898, R900). -/
def renderLine (y : Nat) : M Unit := do
  let s ← get
  if s.ppu.mode = 0 ∨ s.ppu.mode = 1 ∨ s.ppu.mode = 3 then
    set ((s.onMarks (lineMarks s.ppu)).onPpu (paintLine · y))
  else raise (.bgModeUnimplemented s.ppu.mode y)

end Sys2Proof.Machine
end

