-- ==== Sys2Proof/Machine/Bbus.lean ====
section
/-!
DEFINITION. The B-bus registers, offsets 0x2100 to 0x21FF (R231 to R234): the main CPU reaches them through the I/O window,
DMA as its port side (R943).
-/

namespace Sys2Proof.Machine

/-- The audio port an offset of 0x2140 to 0x217F names: the 64 addresses mirror four ports (R232). -/
def portOf (off : Nat) : Nat := off % 4

/-- A read of an audio port, after the catch-up (R232, R993). -/
def portRead (off : Nat) : M Byte := do
  catchUp
  return (← get).apu.pout.get (portOf off)

/-- A write of an audio port, after the catch-up (R232, R993). -/
def portWrite (off : Nat) (v : Byte) : M Unit := do
  catchUp
  modify (·.onApu fun u => { u with pin := u.pin.on (portOf off) (fun _ => v) })

/-- A read of WMDATA (R233). -/
def wmdataRead : M Byte := do
  let s ← get
  set (s.setWmadd (s.wmadd + 1))
  return Cells.read 0 s.wmadd.toNat s.wram

/-- A write of WMDATA (R233). -/
def wmdataWrite (v : Byte) : M Unit :=
  modify fun s => (s.onWram (Cells.write 0 s.wmadd.toNat v)).setWmadd (s.wmadd + 1)

/-- A read of a B-bus register; `a` is the whole address, for the info of a fatal condition (R231 to R234, R896). -/
def bbusRead (a : Addr) : M Byte :=
  let off := (offOf a).toNat
  if 0x2100 ≤ off ∧ off ≤ 0x2133 then draw
  else if off = 0x2134 then return (mpy (← get).ppu).extractLsb' 0 8
  else if off = 0x2135 then return (mpy (← get).ppu).extractLsb' 8 8
  else if off = 0x2136 then return (mpy (← get).ppu).extractLsb' 16 8
  else if off = 0x2137 then draw
  else if 0x2140 ≤ off ∧ off ≤ 0x217F then portRead off
  else if off = 0x2180 then wmdataRead
  else if 0x2181 ≤ off ∧ off ≤ 0x2183 then draw
  else raise (.unmappedRead a)

/-- A write of VMAIN with nonzero remap bits raises the mark VRAM_REMAP (R889). -/
def vmainMark (off : Nat) (v : Byte) (m : Marks) : Marks :=
  if off = 0x2115 && decide (v.extractLsb' 2 2 ≠ 0) then { m with vramRemap := true } else m

/-- A write of a B-bus register (R231 to R234). -/
def bbusWrite (a : Addr) (v : Byte) : M Unit :=
  let off := (offOf a).toNat
  match ppuWrite? off v with
  | some f => modify fun s => (s.onPpu f).onMarks (vmainMark off v)
  | none =>
    if 0x2134 ≤ off ∧ off ≤ 0x213F then pure ()
    else if 0x2140 ≤ off ∧ off ≤ 0x217F then portWrite off v
    else if off = 0x2180 then wmdataWrite v
    else if off = 0x2181 then modify fun s => s.setWmadd (s.wmadd.extractLsb' 8 9 ++ v)
    else if off = 0x2182 then
      modify fun s => s.setWmadd (s.wmadd.extractLsb' 16 1 ++ (v ++ s.wmadd.extractLsb' 0 8 : BitVec 16))
    else if off = 0x2183 then modify fun s => s.setWmadd (v.extractLsb' 0 1 ++ s.wmadd.extractLsb' 0 16)
    else raise (.unmappedWrite a)

end Sys2Proof.Machine
end

