-- ==== Sys2Proof/Machine/Mapper.lean ====
section
/-!
DEFINITION. The page tables (R192, R220) as the function of the cartridge parameters that they are:
the mapper tables R221 to R224 as rows, and the look-up of a 24-bit address.
-/

namespace Sys2Proof.Machine

/-- Regions common to every mapper (R221). -/
def commonMap : List MapRow :=
  [ ⟨0x00, 0x3F, 0x0000, 0x1FFF, .wram, 0x00, 0, 0, 0x1FFF⟩,
    ⟨0x80, 0xBF, 0x0000, 0x1FFF, .wram, 0x00, 0, 0, 0x1FFF⟩,
    ⟨0x7E, 0x7F, 0x0000, 0xFFFF, .wram, 0x01, 16, 0, 0xFFFF⟩ ]

/-- LoROM, ROM rows (R222). -/
def loRomMap : List MapRow :=
  [ ⟨0x00, 0x7D, 0x8000, 0xFFFF, .rom, 0x7F, 15, 0, 0x7FFF⟩,
    ⟨0x80, 0xFF, 0x8000, 0xFFFF, .rom, 0x7F, 15, 0, 0x7FFF⟩ ]

/-- LoROM, cartridge RAM rows, present only if `P_SRAM_SIZE > 0` (R222). -/
def loRomSramMap : List MapRow :=
  [ ⟨0x70, 0x7D, 0x0000, 0x7FFF, .sram, 0x0F, 15, 0, 0x7FFF⟩,
    ⟨0xF0, 0xFF, 0x0000, 0x7FFF, .sram, 0x0F, 15, 0, 0x7FFF⟩ ]

/-- HiROM, ROM rows (R223). -/
def hiRomMap : List MapRow :=
  [ ⟨0x40, 0x7D, 0x0000, 0xFFFF, .rom, 0x3F, 16, 0, 0xFFFF⟩,
    ⟨0xC0, 0xFF, 0x0000, 0xFFFF, .rom, 0x3F, 16, 0, 0xFFFF⟩,
    ⟨0x00, 0x3F, 0x8000, 0xFFFF, .rom, 0x3F, 16, 0, 0xFFFF⟩,
    ⟨0x80, 0xBF, 0x8000, 0xFFFF, .rom, 0x3F, 16, 0, 0xFFFF⟩ ]

/-- HiROM, cartridge RAM rows, present only if `P_SRAM_SIZE > 0` (R223). -/
def hiRomSramMap : List MapRow :=
  [ ⟨0x20, 0x3F, 0x6000, 0x7FFF, .sram, 0x1F, 13, 0x6000, 0x1FFF⟩,
    ⟨0xA0, 0xBF, 0x6000, 0x7FFF, .sram, 0x1F, 13, 0x6000, 0x1FFF⟩ ]

/-- The rows of a cartridge. LoROMLarge takes the map of the parameter; the rows common to every mapper come first (R224; log 7). -/
def mapRows (cfg : Config) : List MapRow :=
  commonMap ++
  match cfg.mapper with
  | .loRom => loRomMap ++ (if cfg.sramSize > 0 then loRomSramMap else [])
  | .hiRom => hiRomMap ++ (if cfg.sramSize > 0 then hiRomSramMap else [])
  | .loRomLarge => (cfg.largeMap.getD []).filter fun r => decide (r.region ≠ .sram) || decide (cfg.sramSize > 0)

/-- The size of a region: 128 KiB of WRAM (R191), the cartridge's sizes otherwise (R190). -/
def regionSize (cfg : Config) : Region → Nat
  | .wram => 0x20000
  | .rom => cfg.romSize
  | .sram => cfg.sramSize

/-- A row covers a bank and an offset. -/
def rowCovers (r : MapRow) (bank off : Nat) : Bool :=
  decide (r.bankLo ≤ bank) && decide (bank ≤ r.bankHi) && decide (r.offLo ≤ off) && decide (off ≤ r.offHi)

/-- The index a row gives a bank and an offset, in a region of the size given (R222, R223; log 13). -/
def rowIndex (r : MapRow) (size bank off : Nat) : Nat :=
  (((bank &&& r.bankMask) <<< r.bankShift) ||| ((off - r.offBase) &&& r.offMask)) % size

/-- The I/O window: banks 0x00 to 0x3F and 0x80 to 0xBF, offsets 0x2000 to 0x5FFF, `Unmapped` under every mapper (R221, R230). -/
def ioWindow (bank off : Nat) : Bool :=
  (decide (bank ≤ 0x3F) || (decide (0x80 ≤ bank) && decide (bank ≤ 0xBF))) && decide (0x2000 ≤ off) && decide (off ≤ 0x5FFF)

/-- `rpage` at an address: the region and the index in it, or `none` for `Unmapped` (R192, R210, R220). -/
def rpage (cfg : Config) (a : Addr) : Option (Region × Nat) :=
  let bank := (bankOf a).toNat
  let off := (offOf a).toNat
  if ioWindow bank off then none
  else ((mapRows cfg).find? (rowCovers · bank off)).map fun r => (r.region, rowIndex r (regionSize cfg r.region) bank off)

/-- `wpage` at an address: as `rpage`, but only the writable regions (R211, R220). -/
def wpage (cfg : Config) (a : Addr) : Option (Region × Nat) :=
  (rpage cfg a).filter fun p => decide (p.1 ≠ .rom)

end Sys2Proof.Machine
end

