-- ==== Sys2Proof/Machine/Queue.lean ====
section
/-!
DEFINITION. The scheduler's operations on the machine: pushing an event, letting time pass (R850).
-/

namespace Sys2Proof.Machine

/-- One of the two line events (R859). -/
def EventKind.isLine : EventKind → Bool
  | .hblank | .eol => true
  | .assertNmi | .sentinel => false

/-- `pushEvent(kind, ts)` (R850). -/
def Sched.push (kind : EventKind) (ts : Nat) (q : Sched) : Sched :=
  { q with queue := insertEvent ⟨kind, ts, q.seqNext⟩ q.queue, seqNext := q.seqNext + 1 }

/-- `pushEvent(kind, ts)` on the machine. -/
def pushEvent (kind : EventKind) (ts : Nat) : M Unit := modify (·.onSched (·.push kind ts))

/-- `addCycles(n)`: the master clock only increases (R850, R855). -/
def addMaster (n : Nat) : M Unit := modify (·.onSched fun q => { q with master := q.master + n })

end Sys2Proof.Machine
end

