-- ==== Sys2Proof/Machine/Dma.lean ====
section
/-!
DEFINITION. Memory reached through the page tables, and general-purpose DMA (R940 to R947).
-/

namespace Sys2Proof.Machine

/-! ## The fast path (R210, R211) -/

/-- A byte of a region (R210). -/
def regionRead (s : State) (r : Region) (i : Nat) : Byte :=
  match r with
  | .wram => Cells.read 0 i s.wram
  | .rom => Cells.read 0 i s.cfg.rom
  | .sram => Cells.read 0 i s.sram

/-- A byte of a writable region written (R211); ROM is immutable (R190). -/
def regionWrite (r : Region) (i : Nat) (v : Byte) (s : State) : State :=
  match r with
  | .wram => s.onWram (Cells.write 0 i v)
  | .rom => s
  | .sram => s.onSram (Cells.write 0 i v)

/-! ## Channels (R951) -/

/-- Byte k of channel c (R951). -/
def dmaByte (s : State) (c k : Nat) : Byte := Cells.read 0 (16 * c + k) s.dma

/-- Byte k of channel c written (R951). -/
def setDmaByte (c k : Nat) (v : Byte) (s : State) : State := s.onDma (Cells.write 0 (16 * c + k) v)

/-- The decoded fields of a channel (R951). -/
structure DmaChannel where
  /-- 0: A-bus to B-bus; 1: B-bus to A-bus. -/
  dir   : Bool
  astep : BitVec 2
  pat   : BitVec 3
  bbad  : Byte
  aaddr : Word
  abank : Byte
  count : Word
deriving DecidableEq, Repr

/-- Channel c's fields. -/
def dmaChannel (s : State) (c : Nat) : DmaChannel :=
  let dmap := dmaByte s c 0
  { dir := dmap.getLsbD 7
    astep := dmap.extractLsb' 3 2
    pat := dmap.extractLsb' 0 3
    bbad := dmaByte s c 1
    aaddr := mkWord (dmaByte s c 3) (dmaByte s c 2)
    abank := dmaByte s c 4
    count := mkWord (dmaByte s c 6) (dmaByte s c 5) }

/-- `Pattern(pat)`, the B-bus offsets of one unit (R945). -/
def dmaPattern (pat : BitVec 3) : List Nat :=
  match pat.toNat with
  | 0 => [0]
  | 1 => [0, 1]
  | 2 => [0, 0]
  | 3 => [0, 0, 1, 1]
  | 4 => [0, 1, 2, 3]
  | 5 => [0, 1, 0, 1]
  | 6 => [0, 0]
  | _ => [0, 0, 1, 1]

/-- The byte count: zero means 0x10000 (R941). -/
def dmaCount (count : Word) : Nat := if count = 0 then 0x10000 else count.toNat

/-- The A-bus offset after one byte, wrapping in its bank (R941). -/
def dmaStep (astep : BitVec 2) (a : Word) : Word :=
  match astep.toNat with
  | 0 => a + 1
  | 2 => a - 1
  | _ => a

/-- The B-bus address of byte k (R941). -/
def dmaPort (ch : DmaChannel) (k : Nat) : Addr :=
  let offs := dmaPattern ch.pat
  mkAddr 0 (mkWord 0x21 (ch.bbad + BitVec.ofNat 8 (offs.getD (k % offs.length) 0)))

/-- `ABusRead(a)` (R944). -/
def abusRead (c : Nat) (a : Addr) : M Byte := do
  let s ← get
  match rpage s.cfg a with
  | some (r, i) => return regionRead s r i
  | none => raise (.dmaAbus c a)

/-- `ABusWrite(a, v)` (R944). -/
def abusWrite (c : Nat) (a : Addr) (v : Byte) : M Unit := do
  let s ← get
  match wpage s.cfg a with
  | some (r, i) => set (regionWrite r i v s)
  | none => raise (.dmaAbus c a)

/-- True where a move would copy WRAM through the WRAM port (R944). -/
def wramToWram (cfg : Config) (a b : Addr) : Bool :=
  offOf b = 0x2180 && decide (((rpage cfg a).map (·.1)) = some .wram)

/-- One byte of a transfer: one read followed by one write (R941, R943, R944; log 23). -/
def dmaMove (c : Nat) (dir : Bool) (a b : Addr) : M Unit := do
  if wramToWram (← get).cfg a b then raise (.dmaAbus c a)
  if dir then
    let v ← bbusRead b
    abusWrite c a v
  else
    let v ← abusRead c a
    bbusWrite b v

/-- `n` bytes from byte k on, with the working A-bus offset; the value is the final offset (R941). -/
def dmaLoop (c : Nat) (ch : DmaChannel) : Nat → Nat → Word → M Word
  | 0, _, off => return off
  | n + 1, k, off => do
    dmaMove c ch.dir (mkAddr ch.abank off) (dmaPort ch k)
    dmaLoop c ch n (k + 1) (dmaStep ch.astep off)

/-- `P_DMA_MASTER(n)` (R11, R946; log 6). -/
def dmaMaster (cfg : Config) (n : Nat) : Nat := Cells.read 0 n cfg.dmaCosts

/-- `RunDMA(c)` (R941, R942, R946, R947). -/
def runDma (c : Nat) : M Unit := do
  let s ← get
  let ch := dmaChannel s c
  let n := dmaCount ch.count
  let u := (dmaPattern ch.pat).length
  if n % u ≠ 0 then raise (.dmaCount c n u)
  let off ← dmaLoop c ch n 0 ch.aaddr
  modify fun s => setDmaByte c 6 0 (setDmaByte c 5 0 (setDmaByte c 3 (hi off) (setDmaByte c 2 (lo off) s)))
  addMaster (dmaMaster s.cfg n)

/-- The channels of a list whose bit of MDMAEN is set, each to completion before the next (R940). -/
def runDmas (v : Byte) : List Nat → M Unit
  | [] => pure ()
  | c :: cs => do
    if v.getLsbD c then runDma c
    runDmas v cs

/-- MDMAEN (R940). -/
def writeMdmaen (v : Byte) : M Unit := runDmas v [0, 1, 2, 3, 4, 5, 6, 7]

end Sys2Proof.Machine
end

