-- ==== Sys2Proof/Machine/MathEngine.lean ====
section
/-!
DEFINITION. The math engine's register writes (R960 to R963).
-/

namespace Sys2Proof.Machine

/-- WRMPYA (R960). -/
def writeMpyA (v : Byte) (u : MathUnit) : MathUnit := { u with wrmpya := v }

/-- WRMPYB: the product, and RDDIV takes the multiplier (R961). -/
def writeMpyB (v : Byte) (u : MathUnit) : MathUnit :=
  { u with wrmpyb := v, rdmpy := BitVec.ofNat 16 (u.wrmpya.toNat * v.toNat), rddiv := zext v }

/-- WRDIVL (R962). -/
def writeDivL (v : Byte) (u : MathUnit) : MathUnit := { u with wrdiv := setLo u.wrdiv v }

/-- WRDIVH (R962). -/
def writeDivH (v : Byte) (u : MathUnit) : MathUnit := { u with wrdiv := setHi u.wrdiv v }

/-- WRDIVB: quotient and remainder; by zero, 0xFFFF and the dividend (R963). -/
def writeDivB (v : Byte) (u : MathUnit) : MathUnit :=
  if v = 0 then { u with wrdivb := v, rddiv := 0xFFFF, rdmpy := u.wrdiv }
  else
    { u with
      wrdivb := v
      rddiv := BitVec.ofNat 16 (u.wrdiv.toNat / v.toNat)
      rdmpy := BitVec.ofNat 16 (u.wrdiv.toNat % v.toNat) }

end Sys2Proof.Machine
end

