-- ==== Sys2Proof/Machine/Bus.lean ====
section
/-!
DEFINITION. The main CPU's bus: the slow path (R230 to R239, R811 to R815) and the access primitives `Read8` and `Write8` (R210, R211).
-/

namespace Sys2Proof.Machine

/-! ## The interrupt controller's registers -/

/-- NMITIMEN: enabling while VBlank is pending queues an immediate NMI (R815). -/
def writeNmitimen (v : Byte) : M Unit := do
  let s ← get
  set ((s.onIo fun r =>
      { r with nmiEn := v.getLsbD 7, virqEn := v.getLsbD 5, hirqEn := v.getLsbD 4, autojoy := v.getLsbD 0 }).onMarks
    fun m => { m with hvIrq := m.hvIrq || v.getLsbD 5 || v.getLsbD 4 })
  if !s.io.nmiEn && v.getLsbD 7 && s.io.rdnmiFlag then pushEvent .assertNmi s.sched.master

/-- RDNMI: the flag, three open-bus bits, version 2; the read clears the flag (R812). -/
def readRdnmi : M Byte := do
  let u ← draw
  let s ← get
  set (s.onIo fun r => { r with rdnmiFlag := false })
  return bitAt 7 s.io.rdnmiFlag ||| (u &&& 0x70) ||| 0x02

/-- TIMEUP: bit 7 is 0, the others open bus (R813). -/
def readTimeup : M Byte := return (← draw) &&& 0x7F

/-- HVBJOY (R814). -/
def readHvbjoy : M Byte := do
  let u ← draw
  let s ← get
  return bitAt 7 s.io.vblank ||| bitAt 6 s.io.hblank ||| (u &&& 0x3E)

/-! ## Other CPU I/O registers -/

/-- HDMAEN: any nonzero value is fatal (R950). -/
def writeHdmaen (v : Byte) : M Unit := do
  modify (·.setHdmaen v)
  if v ≠ 0 then raise (.hdmaUnimplemented v)

/-- `IORead(a)` (R230, R235 to R239). -/
def ioRead (a : Addr) : M Byte := do
  let off := (offOf a).toNat
  if !ioWindow (bankOf a).toNat off then raise (.unmappedRead a)
  else if 0x2100 ≤ off ∧ off ≤ 0x21FF then bbusRead a
  else if off = 0x4016 ∨ off = 0x4017 then draw
  else if 0x4200 ≤ off ∧ off ≤ 0x420D then draw
  else if off = 0x4210 then readRdnmi
  else if off = 0x4211 then readTimeup
  else if off = 0x4212 then readHvbjoy
  else if off = 0x4213 then draw
  else if off = 0x4214 then return lo (← get).math.rddiv
  else if off = 0x4215 then return hi (← get).math.rddiv
  else if off = 0x4216 then return lo (← get).math.rdmpy
  else if off = 0x4217 then return hi (← get).math.rdmpy
  else if 0x4218 ≤ off ∧ off ≤ 0x421F then draw
  else if 0x4300 ≤ off ∧ off ≤ 0x437F ∧ off % 16 < 12 then return dmaByte (← get) ((off - 0x4300) / 16) (off % 16)
  else raise (.unmappedRead a)

/-- `IOWrite(a, v)` (R230, R235 to R239; log 14). -/
def ioWrite (a : Addr) (v : Byte) : M Unit := do
  let off := (offOf a).toNat
  if !ioWindow (bankOf a).toNat off then raise (.unmappedWrite a)
  else if 0x2100 ≤ off ∧ off ≤ 0x21FF then bbusWrite a v
  else if off = 0x4016 then modify (·.onIo fun r => { r with joyserOut := v })
  else if off = 0x4017 then pure ()
  else if off = 0x4200 then writeNmitimen v
  else if off = 0x4201 then modify (·.onIo fun r => { r with wrio := v })
  else if off = 0x4202 then modify (·.onMath (writeMpyA v))
  else if off = 0x4203 then modify (·.onMath (writeMpyB v))
  else if off = 0x4204 then modify (·.onMath (writeDivL v))
  else if off = 0x4205 then modify (·.onMath (writeDivH v))
  else if off = 0x4206 then modify (·.onMath (writeDivB v))
  else if off = 0x4207 then modify (·.onIo fun r => { r with htime := r.htime.extractLsb' 8 1 ++ v })
  else if off = 0x4208 then modify (·.onIo fun r => { r with htime := v.extractLsb' 0 1 ++ r.htime.extractLsb' 0 8 })
  else if off = 0x4209 then modify (·.onIo fun r => { r with vtime := r.vtime.extractLsb' 8 1 ++ v })
  else if off = 0x420A then modify (·.onIo fun r => { r with vtime := v.extractLsb' 0 1 ++ r.vtime.extractLsb' 0 8 })
  else if off = 0x420B then writeMdmaen v
  else if off = 0x420C then writeHdmaen v
  else if off = 0x420D then modify (·.onIo fun r => { r with memsel := v })
  else if 0x4210 ≤ off ∧ off ≤ 0x421F then pure ()
  else if 0x4300 ≤ off ∧ off ≤ 0x437F ∧ off % 16 < 12 then modify (setDmaByte ((off - 0x4300) / 16) (off % 16) v)
  else raise (.unmappedWrite a)

/-! ## The access primitives -/

/-- `Read8(a)` (R210). -/
def read8 (a : Addr) : M Byte := do
  let s ← get
  match rpage s.cfg a with
  | some (r, i) => return regionRead s r i
  | none => ioRead a

/-- `Write8(a, v)` (R211). -/
def write8 (a : Addr) (v : Byte) : M Unit := do
  let s ← get
  match wpage s.cfg a with
  | some (r, i) => set (regionWrite r i v s)
  | none => ioWrite a v

end Sys2Proof.Machine
end

