-- ==== Sys2Proof/Machine/Flags.lean ====
section
/-!
DEFINITION. Operand widths, the status register, and every flag computation of the main CPU (R15, R404, R531 to R534, R536, R620).
-/

namespace Sys2Proof.Machine

/-! ## Widths -/

/-- The operand width `w`: one byte or two (R404). -/
inductive Width where
  | w8
  | w16
deriving DecidableEq, Repr

/-- Bits of an operand, 8w. -/
def Width.bits : Width → Nat
  | .w8 => 8
  | .w16 => 16

/-- `mask(w)` (R14). -/
def Width.mask : Width → Word
  | .w8 => 0x00FF
  | .w16 => 0xFFFF

/-- `trunc_{8w}(v)`: values of width w are held zero-extended in a word. -/
def Width.trunc (w : Width) (v : Word) : Word := v &&& w.mask

/-- Bit 8w-1 of a value. -/
def Width.top (w : Width) (v : Word) : Bool := v.getLsbD (w.bits - 1)

/-! ## The status register (R106) -/

/-- Bit places in P. -/
abbrev fN : Nat := 7
/-- Overflow. -/
abbrev fV : Nat := 6
/-- Short accumulator. -/
abbrev fM : Nat := 5
/-- Short index. -/
abbrev fX : Nat := 4
/-- Decimal. -/
abbrev fD : Nat := 3
/-- Interrupt disable. -/
abbrev fI : Nat := 2
/-- Zero. -/
abbrev fZ : Nat := 1
/-- Carry. -/
abbrev fC : Nat := 0

/-- A flag of P. -/
def Cpu.flag (b : Cpu) (i : Nat) : Bool := b.p.getLsbD i

/-- A flag of P set. -/
def Cpu.setFlag (b : Cpu) (i : Nat) (v : Bool) : Cpu := { b with p := putBit i v b.p }

/-- The width of accumulator and memory operations (R404). -/
def Cpu.mW (b : Cpu) : Width := if b.flag fM then .w8 else .w16

/-- The width of index operations (R404). -/
def Cpu.xW (b : Cpu) : Width := if b.flag fX then .w8 else .w16

/-- `setNZ(v, w)` (R15). -/
def Cpu.setNZ (b : Cpu) (v : Word) (w : Width) : Cpu :=
  (b.setFlag fN (w.top v)).setFlag fZ (decide (w.trunc v = 0))

/-- X and Y with their high bytes cleared where the flag X is 1 (R101, R620). -/
def Cpu.maskIndex (b : Cpu) : Cpu :=
  if b.flag fX then { b with x := b.x &&& 0x00FF, y := b.y &&& 0x00FF } else b

/-- M and X set where E is 1 (R108, R620). -/
def Cpu.forceModes (b : Cpu) : Cpu := if b.e then { b with p := b.p ||| 0x30 } else b

/-- `WriteP(v)` (R620). -/
def Cpu.writeP (b : Cpu) (v : Byte) : Cpu := ({ b with p := v } : Cpu).forceModes.maskIndex

/-! ## Arithmetic results and their flags -/

/-- A result of width w with carry and overflow. -/
structure ArithResult where
  r : Word
  c : Bool
  v : Bool
deriving DecidableEq, Repr

/-- Signed overflow at width w of adding `v` to `a` with sum bits `s` (R531, R532, R534). -/
def overflow (w : Width) (a v s : Word) : Bool := w.top (~~~(a ^^^ v) &&& (a ^^^ s))

/-- `BinAdd` on operands `a` and `v` of width w (R531). -/
def binAdd (w : Width) (a v : Word) (c : Bool) : ArithResult :=
  let s := a.toNat + v.toNat + c.toNat
  let s16 := BitVec.ofNat 16 s
  { r := w.trunc s16, c := decide (s > w.mask.toNat), v := overflow w a v s16 }

/-- `r AND m` for an integer r, by its two's-complement bits, where m + 1 is a power of two (R534). -/
def low (r : Int) (m : Nat) : Int := r % (m + 1)

/-- The digit at mask `m` of a word, in place. -/
def digit (v : Word) (m : Word) : Int := ((v &&& m).toNat : Int)

/-- One digit step of `DecAdd`: the running sum corrected if above `limit`, its carry out at `top` passed to the next digit (R532). -/
def decAddStep (r : Int) (limit corr top : Int) : Int × Bool :=
  let r' := if r > limit then r + corr else r
  (r', decide (r' > top))

/-- The running sum of `DecAdd` before the last digit's correction (R532). -/
def decAddSum (w : Width) (a v : Word) (c : Bool) : Int :=
  let (r, c) := decAddStep (digit a 0x000F + digit v 0x000F + (c.toNat : Int)) 0x0009 0x0006 0x000F
  let r := digit a 0x00F0 + digit v 0x00F0 + (c.toNat : Int) * 0x10 + low r 0x000F
  match w with
  | .w8 => r
  | .w16 =>
    let (r, c) := decAddStep r 0x009F 0x0060 0x00FF
    let r := digit a 0x0F00 + digit v 0x0F00 + (c.toNat : Int) * 0x100 + low r 0x00FF
    let (r, c) := decAddStep r 0x09FF 0x0600 0x0FFF
    digit a 0xF000 + digit v 0xF000 + (c.toNat : Int) * 0x1000 + low r 0x0FFF

/-- `DecAdd` on operands `a` and `v` of width w (R532). -/
def decAdd (w : Width) (a v : Word) (c : Bool) : ArithResult :=
  let r := decAddSum w a v c
  let r' := match w with
    | .w8 => if r > 0x9F then r + 0x60 else r
    | .w16 => if r > 0x9FFF then r + 0x6000 else r
  { r := w.trunc (BitVec.ofInt 16 r')
    c := decide (r' > (w.mask.toNat : Int))
    v := overflow w a v (BitVec.ofInt 16 r) }

/-- One digit step of `DecSub`: the running sum corrected if at or below `limit`, its carry out at `limit` passed on (R534). -/
def decSubStep (r : Int) (limit corr : Int) : Int × Bool :=
  let r' := if r ≤ limit then r - corr else r
  (r', decide (r' > limit))

/-- The running sum of `DecSub` before the last digit's correction; `u` is the complemented operand (R534). -/
def decSubSum (w : Width) (a u : Word) (c : Bool) : Int :=
  let (r, c) := decSubStep (digit a 0x000F + digit u 0x000F + (c.toNat : Int)) 0x000F 0x0006
  let r := digit a 0x00F0 + digit u 0x00F0 + (c.toNat : Int) * 0x10 + low r 0x000F
  match w with
  | .w8 => r
  | .w16 =>
    let (r, c) := decSubStep r 0x00FF 0x0060
    let r := digit a 0x0F00 + digit u 0x0F00 + (c.toNat : Int) * 0x100 + low r 0x00FF
    let (r, c) := decSubStep r 0x0FFF 0x0600
    digit a 0xF000 + digit u 0xF000 + (c.toNat : Int) * 0x1000 + low r 0x0FFF

/-- `DecSub` on operands `a` and `v` of width w (R534). -/
def decSub (w : Width) (a v : Word) (c : Bool) : ArithResult :=
  let u := w.trunc (~~~v)
  let r := decSubSum w a u c
  let r' := if r ≤ (w.mask.toNat : Int) then r - (match w with | .w8 => 0x60 | .w16 => 0x6000) else r
  { r := w.trunc (BitVec.ofInt 16 r')
    c := decide (r' > (w.mask.toNat : Int))
    v := overflow w a u (BitVec.ofInt 16 r) }

/-- What ADC computes: binary, or decimal where D is 1 (R530). -/
def adcResult (d : Bool) (w : Width) (a v : Word) (c : Bool) : ArithResult :=
  if d then decAdd w a v c else binAdd w a v c

/-- What SBC computes: binary addition of the complement, or decimal where D is 1 (R533). -/
def sbcResult (d : Bool) (w : Width) (a v : Word) (c : Bool) : ArithResult :=
  if d then decSub w a v c else binAdd w a (w.trunc (~~~v)) c

/-- N, V, Z and C from an arithmetic result (R531, R532, R534). -/
def Cpu.setArith (b : Cpu) (w : Width) (x : ArithResult) : Cpu :=
  ((b.setFlag fC x.c).setFlag fV x.v).setNZ x.r w

/-- A compare's flags: C is `a >= v`, N and Z from `a - v` (R536 to R538). -/
def Cpu.compare (b : Cpu) (w : Width) (a v : Word) : Cpu :=
  (b.setFlag fC (decide (v.toNat ≤ a.toNat))).setNZ (a - v) w

end Sys2Proof.Machine
end

