-- ==== Sys2Proof/Machine/Ops.lean ====
section
/-!
DEFINITION. The named operations of the main CPU over registers and memory: register access, operand locators (R403),
memory operands, the stack (R500, R501), taking an exception (R804 to R808) and the return from one (R809), and charging cycles.
-/

namespace Sys2Proof.Machine

/-! ## Registers -/

/-- The main CPU's registers. -/
def getCpu : M Cpu := return (← get).cpu

/-- Update the main CPU's registers. -/
def onCpu (f : Cpu → Cpu) : M Unit := modify (·.onCpu f)

/-- `Acc(w)`: A or C (R14). -/
def Cpu.acc (b : Cpu) : Width → Word
  | .w8 => zext (lo b.c)
  | .w16 => b.c

/-- `Acc(w) <- v`: at 8 bits B is unchanged (R14, R100). -/
def Cpu.setAcc (b : Cpu) (w : Width) (v : Word) : Cpu :=
  match w with
  | .w8 => { b with c := setLo b.c (lo v) }
  | .w16 => { b with c := v }

/-- `Ix(w) <- v` for X: at 8 bits the high byte is 0 (R14, R101). -/
def Cpu.setX (b : Cpu) (w : Width) (v : Word) : Cpu := { b with x := w.trunc v }

/-- `Ix(w) <- v` for Y: at 8 bits the high byte is 0 (R14, R101). -/
def Cpu.setY (b : Cpu) (w : Width) (v : Word) : Cpu := { b with y := w.trunc v }

/-- Cycles charged to `cycles` and kept in `pending` until they are converted to master ticks (R110, R808, R855; log 15). -/
def Cpu.charge (n : Nat) (b : Cpu) : Cpu := { b with cycles := b.cycles + n, pending := b.pending + n }

/-! ## Operand locators (R403) -/

/-- An operand locator: the wrap classes of R403. -/
inductive Loc where
  /-- `L24(a)` -/
  | lin (a : Addr)
  /-- `B0`, `PB`, `DPN` and unwrapped `DP`: an offset that wraps in its bank -/
  | bank (b : Byte) (off : Word)
  /-- `DP` in emulation mode with D[7:0] = 0: an offset that wraps in its page of bank 0 -/
  | page (h l : Byte)
deriving DecidableEq, Repr

/-- The address of byte `j` (R403). -/
def Loc.at : Loc → Nat → Addr
  | .lin a, j => a + BitVec.ofNat 24 j
  | .bank b off, j => mkAddr b (off + BitVec.ofNat 16 j)
  | .page h l, j => mkAddr 0 (mkWord h (l + BitVec.ofNat 8 j))

/-- `DP(k)`: DirectAddr (R403). -/
def Cpu.dpLoc (b : Cpu) (k : Word) : Loc :=
  if b.e && decide (lo b.d = 0) then .page (hi b.d) (lo k) else .bank 0 (b.d + k)

/-- `DPN(k)`: never page-wrapped (R403). -/
def Cpu.dpnLoc (b : Cpu) (k : Word) : Loc := .bank 0 (b.d + k)

/-- A 16-bit value's linear address in the data bank (R406, R414). -/
def Cpu.dataAddr (b : Cpu) (p : Word) : Addr := mkAddr b.dbr p

/-- `MemRead(loc, w)`: low byte first (R403, R201). -/
def memRead (l : Loc) : Width → M Word
  | .w8 => return zext (← read8 (l.at 0))
  | .w16 => do
    let b0 ← read8 (l.at 0)
    let b1 ← read8 (l.at 1)
    return mkWord b1 b0

/-- `MemRead(loc, 3)`: a 24-bit pointer, low byte first (R417, R428). -/
def memRead24 (l : Loc) : M Addr := do
  let b0 ← read8 (l.at 0)
  let b1 ← read8 (l.at 1)
  let b2 ← read8 (l.at 2)
  return mkAddr b2 (mkWord b1 b0)

/-- `MemWrite(loc, w, v)`: low byte first (R403, R201). -/
def memWrite (l : Loc) (w : Width) (v : Word) : M Unit :=
  match w with
  | .w8 => write8 (l.at 0) (lo v)
  | .w16 => do
    write8 (l.at 0) (lo v)
    write8 (l.at 1) (hi v)

/-! ## The stack (R500, R501) -/

/-- S after a push: in emulation mode it stays in page 1 (R500). -/
def Cpu.decS (b : Cpu) : Cpu := { b with s := if b.e then mkWord 0x01 (lo b.s - 1) else b.s - 1 }

/-- S before a pull: in emulation mode it stays in page 1 (R500). -/
def Cpu.incS (b : Cpu) : Cpu := { b with s := if b.e then mkWord 0x01 (lo b.s + 1) else b.s + 1 }

/-- `Push8(v)` (R500). -/
def push8 (v : Byte) : M Unit := do
  write8 (mkAddr 0 (← getCpu).s) v
  onCpu Cpu.decS

/-- `Pull8()` (R500). -/
def pull8 : M Byte := do
  onCpu Cpu.incS
  read8 (mkAddr 0 (← getCpu).s)

/-- `Push16(v)`: high byte first (R501). -/
def push16 (v : Word) : M Unit := do
  push8 (hi v)
  push8 (lo v)

/-- `Pull16()`: low byte first (R501). -/
def pull16 : M Word := do
  let l ← pull8
  let h ← pull8
  return mkWord h l

/-- `PushW(v, w)` (R501). -/
def pushW (v : Word) : Width → M Unit
  | .w8 => push8 (lo v)
  | .w16 => push16 v

/-- `PullW(w)` (R501). -/
def pullW : Width → M Word
  | .w8 => return zext (← pull8)
  | .w16 => pull16

/-! ## Taking an exception, and returning from one -/

/-- The interrupt kinds with a vector (R800, R806). Nothing raises `abort` or `irq` (R800, R802). -/
inductive IntKind where
  | cop
  | brk
  | abort
  | nmi
  | irq
deriving DecidableEq, Repr

/-- `Vector(kind, E)` (R806). -/
def vector (k : IntKind) (e : Bool) : Word :=
  match k with
  | .cop => if e then 0xFFF4 else 0xFFE4
  | .brk => if e then 0xFFFE else 0xFFE6
  | .abort => if e then 0xFFF8 else 0xFFE8
  | .nmi => if e then 0xFFFA else 0xFFEA
  | .irq => if e then 0xFFFE else 0xFFEE

/-- `EmuP(kind)`: bit 5 pushed as 1, bit 4 the B flag, 1 only for BRK (R807). -/
def emuP (k : IntKind) (p : Byte) : Byte := (p &&& 0xCF) ||| 0x20 ||| (if k = .brk then 0x10 else 0x00)

/-- The word at bank 0, low byte first: a vector (R805). -/
def readVector (v : Word) : M Word := do
  let l ← read8 (mkAddr 0 v)
  let h ← read8 (mkAddr 0 (v + 1))
  return mkWord h l

/-- What interrupt entry pushes (R805, R807). -/
def pushFrame (k : IntKind) (ret : Word) : M Unit := do
  let b ← getCpu
  if b.e then
    push16 ret
    push8 (emuP k b.p)
  else
    push8 b.pbr
    push16 ret
    push8 b.p

/-- I set, D cleared, PBR 0 (R805), through WriteP (R620). -/
def Cpu.enterInterrupt (b : Cpu) : Cpu := { b.writeP ((b.p ||| 0x04) &&& ~~~0x08) with pbr := 0 }

/-- `Interrupt(kind, ret)` (R805). -/
def interrupt (k : IntKind) (ret : Word) : M Unit := do
  pushFrame k ret
  onCpu Cpu.enterInterrupt
  let t ← readVector (vector k (← getCpu).e)
  onCpu fun b => { b with pc := t, waiting := false }

/-- The cycles of an NMI entry (R808). -/
def nmiCycles (e : Bool) : Nat := if e then 7 else 8

/-- `fireNMI()`: nothing at all when stopped (R804, R808). -/
def fireNmi : M Unit := do
  let b ← getCpu
  if !b.stopped then
    interrupt .nmi b.pc
    onCpu (Cpu.charge (nmiCycles b.e))

/-- Return from interrupt: P, PC, and in native mode PBR (R601, R809). -/
def returnFromInterrupt : M Unit := do
  let p ← pull8
  onCpu (·.writeP p)
  let t ← pull16
  onCpu fun b => { b with pc := t }
  if !(← getCpu).e then
    let k ← pull8
    onCpu fun b => { b with pbr := k }

/-! ## An instruction from its body to its end -/

/-- Run a meaning's body and charge its cost, evaluated on the registers before it (R400, R1070). -/
def runInstr (i : Instr) (body : M Facts) (s : State) : Host.Outcome State Fault Refusal :=
  outcomeOf <| EStateM.run (do
    let f ← body
    onCpu (Cpu.charge (instrCost s.cfg i s.cpu f))) s

end Sys2Proof.Machine
end

