-- ==== Sys2Proof/Machine/Operands.lean ====
section
/-!
DEFINITION. The main CPU's operand forms: every addressing mode of R405 to R430, source operands, read-modify-write operands,
and control-transfer targets.
-/

namespace Sys2Proof.Machine

/-- A linear locator plus an index (R407, R410, R416). -/
def linPlus (a : Addr) (ix : Word) : Loc := .lin (a + ix.setWidth 24)

/-- "Crosses a page": the high byte of the offset changes when the index is added (R407, R416). -/
def crosses (off ix : Word) : Bool := decide (hi off ≠ hi (off + ix))

/-- The locator of a memory operand and whether its index crosses a page (R406 to R420). -/
def resolve : AddrMode → M (Loc × Bool)
  | .dp o => do
    let b ← getCpu
    return (b.dpLoc (zext o), false)
  | .dpx o => do
    let b ← getCpu
    return (b.dpLoc (zext o + b.x), false)
  | .dpy o => do
    let b ← getCpu
    return (b.dpLoc (zext o + b.y), false)
  | .dpind o => do
    let b ← getCpu
    let p ← memRead (b.dpLoc (zext o)) .w16
    return (.lin (b.dataAddr p), false)
  | .dpxind o => do
    let b ← getCpu
    let p ← memRead (b.dpLoc (zext o + b.x)) .w16
    return (.lin (b.dataAddr p), false)
  | .dpindy o => do
    let b ← getCpu
    let p ← memRead (b.dpLoc (zext o)) .w16
    return (linPlus (b.dataAddr p) b.y, crosses p b.y)
  | .dpindl o => do
    let b ← getCpu
    let p ← memRead24 (b.dpnLoc (zext o))
    return (.lin p, false)
  | .dpindly o => do
    let b ← getCpu
    let p ← memRead24 (b.dpnLoc (zext o))
    return (linPlus p b.y, false)
  | .sr o => do
    let b ← getCpu
    return (.bank 0 (b.s + zext o), false)
  | .sriy o => do
    let b ← getCpu
    let p ← memRead (.bank 0 (b.s + zext o)) .w16
    return (linPlus (b.dataAddr p) b.y, false)
  | .abs a => do
    let b ← getCpu
    return (.lin (b.dataAddr a), false)
  | .absx a => do
    let b ← getCpu
    return (linPlus (b.dataAddr a) b.x, crosses a b.x)
  | .absy a => do
    let b ← getCpu
    return (linPlus (b.dataAddr a) b.y, crosses a b.y)
  | .long a => return (.lin a, false)
  | .longx a => do
    let b ← getCpu
    return (linPlus a b.x, false)

/-- The facts of an instruction whose operand's index crosses a page or not (R1070). -/
def Facts.index (x : Bool) : Facts := { Facts.plain with indexCrosses := x }

/-- The value of an immediate at width w (R405; log 17). -/
def Imm.value (w : Width) : Imm → Word
  | .b8 v => zext v
  | .b16 v => w.trunc v

/-- The value of a source operand at width w, and the facts of its addressing (R404 to R420). -/
def srcValue (src : Src) (w : Width) : M (Word × Facts) :=
  match src with
  | .imm v => return (Imm.value w v, Facts.plain)
  | .mem m => do
    let (l, x) ← resolve m
    let v ← memRead l w
    return (v, Facts.index x)

/-- A value stored to a memory operand at width w (R453 to R456). -/
def storeValue (m : AddrMode) (w : Width) (v : Word) : M Facts := do
  let (l, x) ← resolve m
  memWrite l w v
  return Facts.index x

/-- A read-modify-write operation at the accumulator's width: read, compute (with the carry, where it changes),
write through the same locator, then N and Z from the result (R421, R432, R545, R551). -/
def modifyOperand (op : Rmw) (f : Width → Word → M Word) : M Facts := do
  let b ← getCpu
  let w := b.mW
  match op with
  | .acc =>
    let r ← f w (b.acc w)
    onCpu fun b => (b.setAcc w r).setNZ r w
    return Facts.plain
  | .mem m =>
    let (l, x) ← resolve m
    let v ← memRead l w
    let r ← f w v
    memWrite l w r
    onCpu fun b => b.setNZ r w
    return Facts.index x

/-! ## Control-transfer targets (R423 to R429) -/

/-- `target` of form `rel` (R423). -/
def relTarget (pcNext : Word) (r : Byte) : Word := pcNext + sext r

/-- The target of `(addr)`: a pointer in bank 0 (R426). -/
def absIndirect (a : Word) : M Word := memRead (.bank 0 a) .w16

/-- The target of `(addr,X)`: a pointer in the program bank (R427). -/
def absIndexedIndirect (a : Word) : M Word := do
  let b ← getCpu
  memRead (.bank b.pbr (a + b.x)) .w16

/-- The target of `[addr]`: a 24-bit pointer in bank 0 (R428). -/
def absIndirectLong (a : Word) : M Addr := memRead24 (.bank 0 a)

end Sys2Proof.Machine
end

