-- ==== Sys2Proof/Machine/LoadStore.lean ====
section
/-!
DEFINITION. The meanings of loads, stores, transfers and block moves (41_load_store_transfer.md, R450 to R471).
-/

namespace Sys2Proof.Machine

/-! ## Loads -/

/-- LDA (R450). -/
def execLda (src : Src) (s : State) : Host.Outcome State Fault Refusal :=
  runInstr (.lda src) (do
    let w := (← getCpu).mW
    let (v, f) ← srcValue src w
    onCpu fun b => (b.setAcc w v).setNZ v w
    return f) s

/-- LDX (R451). -/
def execLdx (src : Src) (s : State) : Host.Outcome State Fault Refusal :=
  runInstr (.ldx src) (do
    let w := (← getCpu).xW
    let (v, f) ← srcValue src w
    onCpu fun b => (b.setX w v).setNZ v w
    return f) s

/-- LDY (R452). -/
def execLdy (src : Src) (s : State) : Host.Outcome State Fault Refusal :=
  runInstr (.ldy src) (do
    let w := (← getCpu).xW
    let (v, f) ← srcValue src w
    onCpu fun b => (b.setY w v).setNZ v w
    return f) s

/-! ## Stores -/

/-- STA (R453). -/
def execSta (m : AddrMode) (s : State) : Host.Outcome State Fault Refusal :=
  runInstr (.sta m) (do
    let b ← getCpu
    storeValue m b.mW (b.acc b.mW)) s

/-- STX (R454). -/
def execStx (m : AddrMode) (s : State) : Host.Outcome State Fault Refusal :=
  runInstr (.stx m) (do
    let b ← getCpu
    storeValue m b.xW b.x) s

/-- STY (R455). -/
def execSty (m : AddrMode) (s : State) : Host.Outcome State Fault Refusal :=
  runInstr (.sty m) (do
    let b ← getCpu
    storeValue m b.xW b.y) s

/-- STZ (R456). -/
def execStz (m : AddrMode) (s : State) : Host.Outcome State Fault Refusal :=
  runInstr (.stz m) (do
    let b ← getCpu
    storeValue m b.mW 0) s

/-! ## Register transfers -/

/-- An instruction of registers alone: an update of the CPU (R422). -/
def regInstr (i : Instr) (f : Cpu → Cpu) (s : State) : Host.Outcome State Fault Refusal :=
  runInstr i (do
    onCpu f
    return Facts.plain) s

/-- TAX: the index width, whatever M is (R457). -/
def execTax (s : State) : Host.Outcome State Fault Refusal :=
  regInstr .tax (fun b => (b.setX b.xW b.c).setNZ b.c b.xW) s

/-- TAY (R458). -/
def execTay (s : State) : Host.Outcome State Fault Refusal :=
  regInstr .tay (fun b => (b.setY b.xW b.c).setNZ b.c b.xW) s

/-- TXA: the accumulator's width (R459). -/
def execTxa (s : State) : Host.Outcome State Fault Refusal :=
  regInstr .txa (fun b => (b.setAcc b.mW b.x).setNZ b.x b.mW) s

/-- TYA (R460). -/
def execTya (s : State) : Host.Outcome State Fault Refusal :=
  regInstr .tya (fun b => (b.setAcc b.mW b.y).setNZ b.y b.mW) s

/-- TXY (R461). -/
def execTxy (s : State) : Host.Outcome State Fault Refusal :=
  regInstr .txy (fun b => (b.setY b.xW b.x).setNZ b.x b.xW) s

/-- TYX (R462). -/
def execTyx (s : State) : Host.Outcome State Fault Refusal :=
  regInstr .tyx (fun b => (b.setX b.xW b.y).setNZ b.y b.xW) s

/-- TSX (R463). -/
def execTsx (s : State) : Host.Outcome State Fault Refusal :=
  regInstr .tsx (fun b => (b.setX b.xW b.s).setNZ b.s b.xW) s

/-- S written by a transfer: in emulation mode its high byte stays 0x01 (R102, R464, R465). -/
def Cpu.setS (b : Cpu) (v : Word) : Cpu := { b with s := if b.e then mkWord 0x01 (lo v) else v }

/-- TXS sets no flag (R464). -/
def execTxs (s : State) : Host.Outcome State Fault Refusal :=
  regInstr .txs (fun b => b.setS b.x) s

/-- TCS: 16 bits whatever M is, no flag (R465). -/
def execTcs (s : State) : Host.Outcome State Fault Refusal :=
  regInstr .tcs (fun b => b.setS b.c) s

/-- TSC: 16 bits whatever M is (R466). -/
def execTsc (s : State) : Host.Outcome State Fault Refusal :=
  regInstr .tsc (fun b => { b with c := b.s }.setNZ b.s .w16) s

/-- TCD (R467). -/
def execTcd (s : State) : Host.Outcome State Fault Refusal :=
  regInstr .tcd (fun b => { b with d := b.c }.setNZ b.c .w16) s

/-- TDC (R468). -/
def execTdc (s : State) : Host.Outcome State Fault Refusal :=
  regInstr .tdc (fun b => { b with c := b.d }.setNZ b.d .w16) s

/-- XBA: N and Z from the new low byte (R469). -/
def execXba (s : State) : Host.Outcome State Fault Refusal :=
  regInstr .xba (fun b => { b with c := mkWord (lo b.c) (hi b.c) }.setNZ (zext (hi b.c)) .w8) s

/-! ## Block moves -/

/-- The registers after one step of a block move; the instruction repeats until C is 0xFFFF (R470, R471). -/
def Cpu.blockStep (b : Cpu) (dst : Byte) (step : Word) : Cpu :=
  { b with
    dbr := dst
    x := b.xW.trunc (b.x + step)
    y := b.xW.trunc (b.y + step)
    c := b.c - 1
    pc := if b.c - 1 = 0xFFFF then b.pc else b.pc - 3 }

/-- One step of a block move: one byte, then the registers (R430, R470, R471). -/
def blockMove (dst src : Byte) (step : Word) : M Facts := do
  let b ← getCpu
  let v ← read8 (mkAddr src b.x)
  write8 (mkAddr dst b.y) v
  onCpu (·.blockStep dst step)
  return Facts.plain

/-- MVN, one byte per execution (R470). -/
def execMvn (dst src : Byte) (s : State) : Host.Outcome State Fault Refusal :=
  runInstr (.mvn dst src) (blockMove dst src 1) s

/-- MVP, one byte per execution (R471). -/
def execMvp (dst src : Byte) (s : State) : Host.Outcome State Fault Refusal :=
  runInstr (.mvp dst src) (blockMove dst src 0xFFFF) s

end Sys2Proof.Machine
end

