-- ==== Sys2Proof/Machine/Arith.lean ====
section
/-!
DEFINITION. The meanings of arithmetic, logic, compare, increment and shift instructions (43_arith_logic.md, R530 to R555).
-/

namespace Sys2Proof.Machine

/-! ## Add and subtract -/

/-- An accumulator operation with arithmetic flags (R530, R533). -/
def arithInstr (i : Instr) (src : Src) (f : Bool → Width → Word → Word → Bool → ArithResult) (s : State) :
    Host.Outcome State Fault Refusal :=
  runInstr i (do
    let w := (← getCpu).mW
    let (v, facts) ← srcValue src w
    onCpu fun b =>
      let x := f (b.flag fD) w (b.acc w) v (b.flag fC)
      (b.setAcc w x.r).setArith w x
    return facts) s

/-- ADC (R530). -/
def execAdc (src : Src) (s : State) : Host.Outcome State Fault Refusal := arithInstr (.adc src) src adcResult s

/-- SBC (R533). -/
def execSbc (src : Src) (s : State) : Host.Outcome State Fault Refusal := arithInstr (.sbc src) src sbcResult s

/-! ## Compare -/

/-- CMP (R536). -/
def execCmp (src : Src) (s : State) : Host.Outcome State Fault Refusal :=
  runInstr (.cmp src) (do
    let w := (← getCpu).mW
    let (v, f) ← srcValue src w
    onCpu fun b => b.compare w (b.acc w) v
    return f) s

/-- CPX (R537). -/
def execCpx (src : Src) (s : State) : Host.Outcome State Fault Refusal :=
  runInstr (.cpx src) (do
    let w := (← getCpu).xW
    let (v, f) ← srcValue src w
    onCpu fun b => b.compare w b.x v
    return f) s

/-- CPY (R538). -/
def execCpy (src : Src) (s : State) : Host.Outcome State Fault Refusal :=
  runInstr (.cpy src) (do
    let w := (← getCpu).xW
    let (v, f) ← srcValue src w
    onCpu fun b => b.compare w b.y v
    return f) s

/-! ## Logic -/

/-- A logical operation on the accumulator (R539 to R541). -/
def logicInstr (i : Instr) (src : Src) (f : Word → Word → Word) (s : State) : Host.Outcome State Fault Refusal :=
  runInstr i (do
    let w := (← getCpu).mW
    let (v, facts) ← srcValue src w
    onCpu fun b => (b.setAcc w (f (b.acc w) v)).setNZ (f (b.acc w) v) w
    return facts) s

/-- AND (R539). -/
def execAnd (src : Src) (s : State) : Host.Outcome State Fault Refusal := logicInstr (.and src) src (· &&& ·) s

/-- ORA (R540). -/
def execOra (src : Src) (s : State) : Host.Outcome State Fault Refusal := logicInstr (.ora src) src (· ||| ·) s

/-- EOR (R541). -/
def execEor (src : Src) (s : State) : Host.Outcome State Fault Refusal := logicInstr (.eor src) src (· ^^^ ·) s

/-- BIT's flags: Z always; N and V from the operand's top two bits except for the immediate form (R542). -/
def Cpu.bitTest (b : Cpu) (w : Width) (v : Word) (imm : Bool) : Cpu :=
  let b' := b.setFlag fZ (decide (b.acc w &&& v = 0))
  if imm then b' else (b'.setFlag fN (w.top v)).setFlag fV (v.getLsbD (w.bits - 2))

/-- BIT (R542). -/
def execBit (src : Src) (s : State) : Host.Outcome State Fault Refusal :=
  runInstr (.bit src) (do
    let w := (← getCpu).mW
    let (v, f) ← srcValue src w
    onCpu (·.bitTest w v (match src with | .imm _ => true | .mem _ => false))
    return f) s

/-- TSB and TRB: read, Z from the AND, write the changed value (R543, R544). -/
def testAndChange (m : AddrMode) (f : Width → Word → Word → Word) : M Facts := do
  let b ← getCpu
  let w := b.mW
  let (l, x) ← resolve m
  let v ← memRead l w
  onCpu (·.setFlag fZ (decide (b.acc w &&& v = 0)))
  memWrite l w (f w v (b.acc w))
  return Facts.index x

/-- TSB (R543). -/
def execTsb (m : AddrMode) (s : State) : Host.Outcome State Fault Refusal :=
  runInstr (.tsb m) (testAndChange m fun _ v a => v ||| a) s

/-- TRB (R544). -/
def execTrb (m : AddrMode) (s : State) : Host.Outcome State Fault Refusal :=
  runInstr (.trb m) (testAndChange m fun w v a => w.trunc (v &&& ~~~a)) s

/-! ## Increment and decrement -/

/-- INC (R545). -/
def execInc (op : Rmw) (s : State) : Host.Outcome State Fault Refusal :=
  runInstr (.inc op) (modifyOperand op fun w v => return w.trunc (v + 1)) s

/-- DEC (R546). -/
def execDec (op : Rmw) (s : State) : Host.Outcome State Fault Refusal :=
  runInstr (.dec op) (modifyOperand op fun w v => return w.trunc (v - 1)) s

/-- INX (R547). -/
def execInx (s : State) : Host.Outcome State Fault Refusal :=
  regInstr .inx (fun b => (b.setX b.xW (b.x + 1)).setNZ (b.x + 1) b.xW) s

/-- INY (R548). -/
def execIny (s : State) : Host.Outcome State Fault Refusal :=
  regInstr .iny (fun b => (b.setY b.xW (b.y + 1)).setNZ (b.y + 1) b.xW) s

/-- DEX (R549). -/
def execDex (s : State) : Host.Outcome State Fault Refusal :=
  regInstr .dex (fun b => (b.setX b.xW (b.x - 1)).setNZ (b.x - 1) b.xW) s

/-- DEY (R550). -/
def execDey (s : State) : Host.Outcome State Fault Refusal :=
  regInstr .dey (fun b => (b.setY b.xW (b.y - 1)).setNZ (b.y - 1) b.xW) s

/-! ## Shifts and rotates -/

/-- ASL (R551). -/
def execAsl (op : Rmw) (s : State) : Host.Outcome State Fault Refusal :=
  runInstr (.asl op) (modifyOperand op fun w v => do
    onCpu (·.setFlag fC (w.top v))
    return w.trunc (v <<< 1)) s

/-- LSR (R552). -/
def execLsr (op : Rmw) (s : State) : Host.Outcome State Fault Refusal :=
  runInstr (.lsr op) (modifyOperand op fun _ v => do
    onCpu (·.setFlag fC (v.getLsbD 0))
    return v >>> 1) s

/-- A Boolean as bit `i` of a word. -/
def wordBit (i : Nat) (b : Bool) : Word := if b then 1#16 <<< i else 0

/-- ROL (R553). -/
def execRol (op : Rmw) (s : State) : Host.Outcome State Fault Refusal :=
  runInstr (.rol op) (modifyOperand op fun w v => do
    let c := (← getCpu).flag fC
    onCpu (·.setFlag fC (w.top v))
    return w.trunc ((v <<< 1) ||| wordBit 0 c)) s

/-- ROR (R554). -/
def execRor (op : Rmw) (s : State) : Host.Outcome State Fault Refusal :=
  runInstr (.ror op) (modifyOperand op fun w v => do
    let c := (← getCpu).flag fC
    onCpu (·.setFlag fC (v.getLsbD 0))
    return (v >>> 1) ||| wordBit (w.bits - 1) c) s

end Sys2Proof.Machine
end

