-- ==== Sys2Proof/Machine/Audio.lean ====
section
/-!
DEFINITION. The meanings of the audio CPU's instructions on the whole machine: each runs its body on the audio subsystem,
then charges `acycles` (R650), and touches nothing else.
-/

namespace Sys2Proof.Machine

/-- One audio instruction, its bytes fetched: only the audio subsystem changes (R650, R980). -/
def runAudio (i : Instr) (body : A Bool) (s : State) : Host.Outcome State Fault Refusal :=
  .next { s with apu := audioFinish i body s.cfg s.apu }

/-- The audio instruction `aMovA` (see `audioMovA`). -/
def execAMovA (src : ASrc) (s : State) : Host.Outcome State Fault Refusal := runAudio (.aMovA src) (audioMovA src) s

/-- The audio instruction `aMovX` (see `audioMovX`). -/
def execAMovX (src : ASrc) (s : State) : Host.Outcome State Fault Refusal := runAudio (.aMovX src) (audioMovX src) s

/-- The audio instruction `aMovY` (see `audioMovY`). -/
def execAMovY (src : ASrc) (s : State) : Host.Outcome State Fault Refusal := runAudio (.aMovY src) (audioMovY src) s

/-- The audio instruction `aMovStA` (see `audioMovStA`). -/
def execAMovStA (m : AMode) (s : State) : Host.Outcome State Fault Refusal := runAudio (.aMovStA m) (audioMovStA m) s

/-- The audio instruction `aMovStX` (see `audioMovStX`). -/
def execAMovStX (m : AMode) (s : State) : Host.Outcome State Fault Refusal := runAudio (.aMovStX m) (audioMovStX m) s

/-- The audio instruction `aMovStY` (see `audioMovStY`). -/
def execAMovStY (m : AMode) (s : State) : Host.Outcome State Fault Refusal := runAudio (.aMovStY m) (audioMovStY m) s

/-- The audio instruction `aMovXA` (see `audioMovXA`). -/
def execAMovXA (s : State) : Host.Outcome State Fault Refusal := runAudio .aMovXA audioMovXA s

/-- The audio instruction `aMovAX` (see `audioMovAX`). -/
def execAMovAX (s : State) : Host.Outcome State Fault Refusal := runAudio .aMovAX audioMovAX s

/-- The audio instruction `aMovYA` (see `audioMovYA`). -/
def execAMovYA (s : State) : Host.Outcome State Fault Refusal := runAudio .aMovYA audioMovYA s

/-- The audio instruction `aMovAY` (see `audioMovAY`). -/
def execAMovAY (s : State) : Host.Outcome State Fault Refusal := runAudio .aMovAY audioMovAY s

/-- The audio instruction `aMovXSp` (see `audioMovXSp`). -/
def execAMovXSp (s : State) : Host.Outcome State Fault Refusal := runAudio .aMovXSp audioMovXSp s

/-- The audio instruction `aMovSpX` (see `audioMovSpX`). -/
def execAMovSpX (s : State) : Host.Outcome State Fault Refusal := runAudio .aMovSpX audioMovSpX s

/-- The audio instruction `aMovDD` (see `audioMovDD`). -/
def execAMovDD (src : Byte) (dst : Byte) (s : State) : Host.Outcome State Fault Refusal := runAudio (.aMovDD src dst) (audioMovDD src dst) s

/-- The audio instruction `aMovDI` (see `audioMovDI`). -/
def execAMovDI (i : Byte) (d : Byte) (s : State) : Host.Outcome State Fault Refusal := runAudio (.aMovDI i d) (audioMovDI i d) s

/-- The audio instruction `aMovIncA` (see `audioMovIncA`). -/
def execAMovIncA (s : State) : Host.Outcome State Fault Refusal := runAudio .aMovIncA audioMovIncA s

/-- The audio instruction `aMovAInc` (see `audioMovAInc`). -/
def execAMovAInc (s : State) : Host.Outcome State Fault Refusal := runAudio .aMovAInc audioMovAInc s

/-- The audio instruction `aAdc` (see `audioAdc`). -/
def execAAdc (op : AAlu) (s : State) : Host.Outcome State Fault Refusal := runAudio (.aAdc op) (audioAdc op) s

/-- The audio instruction `aSbc` (see `audioSbc`). -/
def execASbc (op : AAlu) (s : State) : Host.Outcome State Fault Refusal := runAudio (.aSbc op) (audioSbc op) s

/-- The audio instruction `aCmp` (see `audioCmp`). -/
def execACmp (op : AAlu) (s : State) : Host.Outcome State Fault Refusal := runAudio (.aCmp op) (audioCmp op) s

/-- The audio instruction `aCmpX` (see `audioCmpX`). -/
def execACmpX (src : ASrc) (s : State) : Host.Outcome State Fault Refusal := runAudio (.aCmpX src) (audioCmpX src) s

/-- The audio instruction `aCmpY` (see `audioCmpY`). -/
def execACmpY (src : ASrc) (s : State) : Host.Outcome State Fault Refusal := runAudio (.aCmpY src) (audioCmpY src) s

/-- The audio instruction `aAnd` (see `audioAnd`). -/
def execAAnd (op : AAlu) (s : State) : Host.Outcome State Fault Refusal := runAudio (.aAnd op) (audioAnd op) s

/-- The audio instruction `aOr` (see `audioOr`). -/
def execAOr (op : AAlu) (s : State) : Host.Outcome State Fault Refusal := runAudio (.aOr op) (audioOr op) s

/-- The audio instruction `aEor` (see `audioEor`). -/
def execAEor (op : AAlu) (s : State) : Host.Outcome State Fault Refusal := runAudio (.aEor op) (audioEor op) s

/-- The audio instruction `aInc` (see `audioInc`). -/
def execAInc (op : ARmw) (s : State) : Host.Outcome State Fault Refusal := runAudio (.aInc op) (audioInc op) s

/-- The audio instruction `aDec` (see `audioDec`). -/
def execADec (op : ARmw) (s : State) : Host.Outcome State Fault Refusal := runAudio (.aDec op) (audioDec op) s

/-- The audio instruction `aAsl` (see `audioAsl`). -/
def execAAsl (op : ARmw) (s : State) : Host.Outcome State Fault Refusal := runAudio (.aAsl op) (audioAsl op) s

/-- The audio instruction `aLsr` (see `audioLsr`). -/
def execALsr (op : ARmw) (s : State) : Host.Outcome State Fault Refusal := runAudio (.aLsr op) (audioLsr op) s

/-- The audio instruction `aRol` (see `audioRol`). -/
def execARol (op : ARmw) (s : State) : Host.Outcome State Fault Refusal := runAudio (.aRol op) (audioRol op) s

/-- The audio instruction `aRor` (see `audioRor`). -/
def execARor (op : ARmw) (s : State) : Host.Outcome State Fault Refusal := runAudio (.aRor op) (audioRor op) s

/-- The audio instruction `aXcn` (see `audioXcn`). -/
def execAXcn (s : State) : Host.Outcome State Fault Refusal := runAudio .aXcn audioXcn s

/-- The audio instruction `aMovwLd` (see `audioMovwLd`). -/
def execAMovwLd (o : Byte) (s : State) : Host.Outcome State Fault Refusal := runAudio (.aMovwLd o) (audioMovwLd o) s

/-- The audio instruction `aMovwSt` (see `audioMovwSt`). -/
def execAMovwSt (o : Byte) (s : State) : Host.Outcome State Fault Refusal := runAudio (.aMovwSt o) (audioMovwSt o) s

/-- The audio instruction `aIncw` (see `audioIncw`). -/
def execAIncw (o : Byte) (s : State) : Host.Outcome State Fault Refusal := runAudio (.aIncw o) (audioIncw o) s

/-- The audio instruction `aDecw` (see `audioDecw`). -/
def execADecw (o : Byte) (s : State) : Host.Outcome State Fault Refusal := runAudio (.aDecw o) (audioDecw o) s

/-- The audio instruction `aAddw` (see `audioAddw`). -/
def execAAddw (o : Byte) (s : State) : Host.Outcome State Fault Refusal := runAudio (.aAddw o) (audioAddw o) s

/-- The audio instruction `aSubw` (see `audioSubw`). -/
def execASubw (o : Byte) (s : State) : Host.Outcome State Fault Refusal := runAudio (.aSubw o) (audioSubw o) s

/-- The audio instruction `aCmpw` (see `audioCmpw`). -/
def execACmpw (o : Byte) (s : State) : Host.Outcome State Fault Refusal := runAudio (.aCmpw o) (audioCmpw o) s

/-- The audio instruction `aMul` (see `audioMul`). -/
def execAMul (s : State) : Host.Outcome State Fault Refusal := runAudio .aMul audioMul s

/-- The audio instruction `aDiv` (see `audioDiv`). -/
def execADiv (s : State) : Host.Outcome State Fault Refusal := runAudio .aDiv audioDiv s

/-- The audio instruction `aDaa` (see `audioDaa`). -/
def execADaa (s : State) : Host.Outcome State Fault Refusal := runAudio .aDaa audioDaa s

/-- The audio instruction `aDas` (see `audioDas`). -/
def execADas (s : State) : Host.Outcome State Fault Refusal := runAudio .aDas audioDas s

/-- The audio instruction `aBra` (see `audioBra`). -/
def execABra (rel : Byte) (s : State) : Host.Outcome State Fault Refusal := runAudio (.aBra rel) (audioBra rel) s

/-- The audio instruction `aBeq` (see `audioBeq`). -/
def execABeq (rel : Byte) (s : State) : Host.Outcome State Fault Refusal := runAudio (.aBeq rel) (audioBeq rel) s

/-- The audio instruction `aBne` (see `audioBne`). -/
def execABne (rel : Byte) (s : State) : Host.Outcome State Fault Refusal := runAudio (.aBne rel) (audioBne rel) s

/-- The audio instruction `aBcs` (see `audioBcs`). -/
def execABcs (rel : Byte) (s : State) : Host.Outcome State Fault Refusal := runAudio (.aBcs rel) (audioBcs rel) s

/-- The audio instruction `aBcc` (see `audioBcc`). -/
def execABcc (rel : Byte) (s : State) : Host.Outcome State Fault Refusal := runAudio (.aBcc rel) (audioBcc rel) s

/-- The audio instruction `aBvs` (see `audioBvs`). -/
def execABvs (rel : Byte) (s : State) : Host.Outcome State Fault Refusal := runAudio (.aBvs rel) (audioBvs rel) s

/-- The audio instruction `aBvc` (see `audioBvc`). -/
def execABvc (rel : Byte) (s : State) : Host.Outcome State Fault Refusal := runAudio (.aBvc rel) (audioBvc rel) s

/-- The audio instruction `aBmi` (see `audioBmi`). -/
def execABmi (rel : Byte) (s : State) : Host.Outcome State Fault Refusal := runAudio (.aBmi rel) (audioBmi rel) s

/-- The audio instruction `aBpl` (see `audioBpl`). -/
def execABpl (rel : Byte) (s : State) : Host.Outcome State Fault Refusal := runAudio (.aBpl rel) (audioBpl rel) s

/-- The audio instruction `aBbs` (see `audioBbs`). -/
def execABbs (b : BitVec 3) (d : Byte) (rel : Byte) (s : State) : Host.Outcome State Fault Refusal := runAudio (.aBbs b d rel) (audioBbs b d rel) s

/-- The audio instruction `aBbc` (see `audioBbc`). -/
def execABbc (b : BitVec 3) (d : Byte) (rel : Byte) (s : State) : Host.Outcome State Fault Refusal := runAudio (.aBbc b d rel) (audioBbc b d rel) s

/-- The audio instruction `aCbne` (see `audioCbne`). -/
def execACbne (d : Byte) (rel : Byte) (s : State) : Host.Outcome State Fault Refusal := runAudio (.aCbne d rel) (audioCbne d rel) s

/-- The audio instruction `aCbneX` (see `audioCbneX`). -/
def execACbneX (d : Byte) (rel : Byte) (s : State) : Host.Outcome State Fault Refusal := runAudio (.aCbneX d rel) (audioCbneX d rel) s

/-- The audio instruction `aDbnz` (see `audioDbnz`). -/
def execADbnz (d : Byte) (rel : Byte) (s : State) : Host.Outcome State Fault Refusal := runAudio (.aDbnz d rel) (audioDbnz d rel) s

/-- The audio instruction `aDbnzY` (see `audioDbnzY`). -/
def execADbnzY (rel : Byte) (s : State) : Host.Outcome State Fault Refusal := runAudio (.aDbnzY rel) (audioDbnzY rel) s

/-- The audio instruction `aJmp` (see `audioJmp`). -/
def execAJmp (a : Word) (s : State) : Host.Outcome State Fault Refusal := runAudio (.aJmp a) (audioJmp a) s

/-- The audio instruction `aJmpInd` (see `audioJmpInd`). -/
def execAJmpInd (a : Word) (s : State) : Host.Outcome State Fault Refusal := runAudio (.aJmpInd a) (audioJmpInd a) s

/-- The audio instruction `aCall` (see `audioCall`). -/
def execACall (a : Word) (s : State) : Host.Outcome State Fault Refusal := runAudio (.aCall a) (audioCall a) s

/-- The audio instruction `aPcall` (see `audioPcall`). -/
def execAPcall (u : Byte) (s : State) : Host.Outcome State Fault Refusal := runAudio (.aPcall u) (audioPcall u) s

/-- The audio instruction `aTcall` (see `audioTcall`). -/
def execATcall (n : BitVec 4) (s : State) : Host.Outcome State Fault Refusal := runAudio (.aTcall n) (audioTcall n) s

/-- The audio instruction `aBrk` (see `audioBrk`). -/
def execABrk (s : State) : Host.Outcome State Fault Refusal := runAudio .aBrk audioBrk s

/-- The audio instruction `aRet` (see `audioRet`). -/
def execARet (s : State) : Host.Outcome State Fault Refusal := runAudio .aRet audioRet s

/-- The audio instruction `aReti` (see `audioReti`). -/
def execAReti (s : State) : Host.Outcome State Fault Refusal := runAudio .aReti audioReti s

/-- The audio instruction `aPush` (see `audioPush`). -/
def execAPush (r : AStackReg) (s : State) : Host.Outcome State Fault Refusal := runAudio (.aPush r) (audioPush r) s

/-- The audio instruction `aPop` (see `audioPop`). -/
def execAPop (r : AStackReg) (s : State) : Host.Outcome State Fault Refusal := runAudio (.aPop r) (audioPop r) s

/-- The audio instruction `aSet1` (see `audioSet1`). -/
def execASet1 (b : BitVec 3) (d : Byte) (s : State) : Host.Outcome State Fault Refusal := runAudio (.aSet1 b d) (audioSet1 b d) s

/-- The audio instruction `aClr1` (see `audioClr1`). -/
def execAClr1 (b : BitVec 3) (d : Byte) (s : State) : Host.Outcome State Fault Refusal := runAudio (.aClr1 b d) (audioClr1 b d) s

/-- The audio instruction `aTset1` (see `audioTset1`). -/
def execATset1 (a : Word) (s : State) : Host.Outcome State Fault Refusal := runAudio (.aTset1 a) (audioTset1 a) s

/-- The audio instruction `aTclr1` (see `audioTclr1`). -/
def execATclr1 (a : Word) (s : State) : Host.Outcome State Fault Refusal := runAudio (.aTclr1 a) (audioTclr1 a) s

/-- The audio instruction `aAnd1` (see `audioAnd1`). -/
def execAAnd1 (neg : Bool) (m : BitVec 13) (b : BitVec 3) (s : State) : Host.Outcome State Fault Refusal := runAudio (.aAnd1 neg m b) (audioAnd1 neg m b) s

/-- The audio instruction `aOr1` (see `audioOr1`). -/
def execAOr1 (neg : Bool) (m : BitVec 13) (b : BitVec 3) (s : State) : Host.Outcome State Fault Refusal := runAudio (.aOr1 neg m b) (audioOr1 neg m b) s

/-- The audio instruction `aEor1` (see `audioEor1`). -/
def execAEor1 (m : BitVec 13) (b : BitVec 3) (s : State) : Host.Outcome State Fault Refusal := runAudio (.aEor1 m b) (audioEor1 m b) s

/-- The audio instruction `aNot1` (see `audioNot1`). -/
def execANot1 (m : BitVec 13) (b : BitVec 3) (s : State) : Host.Outcome State Fault Refusal := runAudio (.aNot1 m b) (audioNot1 m b) s

/-- The audio instruction `aMov1Ld` (see `audioMov1Ld`). -/
def execAMov1Ld (m : BitVec 13) (b : BitVec 3) (s : State) : Host.Outcome State Fault Refusal := runAudio (.aMov1Ld m b) (audioMov1Ld m b) s

/-- The audio instruction `aMov1St` (see `audioMov1St`). -/
def execAMov1St (m : BitVec 13) (b : BitVec 3) (s : State) : Host.Outcome State Fault Refusal := runAudio (.aMov1St m b) (audioMov1St m b) s

/-- The audio instruction `aClrc` (see `audioClrc`). -/
def execAClrc (s : State) : Host.Outcome State Fault Refusal := runAudio .aClrc audioClrc s

/-- The audio instruction `aSetc` (see `audioSetc`). -/
def execASetc (s : State) : Host.Outcome State Fault Refusal := runAudio .aSetc audioSetc s

/-- The audio instruction `aNotc` (see `audioNotc`). -/
def execANotc (s : State) : Host.Outcome State Fault Refusal := runAudio .aNotc audioNotc s

/-- The audio instruction `aClrv` (see `audioClrv`). -/
def execAClrv (s : State) : Host.Outcome State Fault Refusal := runAudio .aClrv audioClrv s

/-- The audio instruction `aClrp` (see `audioClrp`). -/
def execAClrp (s : State) : Host.Outcome State Fault Refusal := runAudio .aClrp audioClrp s

/-- The audio instruction `aSetp` (see `audioSetp`). -/
def execASetp (s : State) : Host.Outcome State Fault Refusal := runAudio .aSetp audioSetp s

/-- The audio instruction `aEi` (see `audioEi`). -/
def execAEi (s : State) : Host.Outcome State Fault Refusal := runAudio .aEi audioEi s

/-- The audio instruction `aDi` (see `audioDi`). -/
def execADi (s : State) : Host.Outcome State Fault Refusal := runAudio .aDi audioDi s

/-- The audio instruction `aNop` (see `audioNop`). -/
def execANop (s : State) : Host.Outcome State Fault Refusal := runAudio .aNop audioNop s

/-- The audio instruction `aSleep` (see `audioSleep`). -/
def execASleep (s : State) : Host.Outcome State Fault Refusal := runAudio .aSleep audioSleep s

/-- The audio instruction `aStop` (see `audioStop`). -/
def execAStop (s : State) : Host.Outcome State Fault Refusal := runAudio .aStop audioStop s

end Sys2Proof.Machine
end

