-- ==== Sys2Proof/Machine/Control.lean ====
section
/-!
DEFINITION. The meanings of branches, jumps, calls, returns and software interrupts (44_control.md, R580 to R603).
-/

namespace Sys2Proof.Machine

/-- `PC <- target`. -/
def jumpTo (t : Word) : M Unit := onCpu fun b => { b with pc := t }

/-- `PC <- a[15:0]; PBR <- a[23:16]`. -/
def jumpLong (a : Addr) : M Unit := onCpu fun b => { b with pc := offOf a, pbr := bankOf a }

/-! ## Branches -/

/-- The facts of a branch at `pcNext` to `target` (R1070). -/
def branchFacts (pcNext target : Word) (taken : Bool) : Facts :=
  { indexCrosses := false, taken := taken, branchCrosses := decide (hi pcNext ≠ hi target) }

/-- A branch to `target` of `PC_next` on a condition; its cost is given the facts of R1070: whether it is taken, and whether it crosses a
page. -/
def branchTo (i : Instr) (cond : Cpu → Bool) (target : Word → Word) (s : State) : Host.Outcome State Fault Refusal :=
  runInstr i (do
    let b ← getCpu
    if cond b then jumpTo (target b.pc)
    return branchFacts b.pc (target b.pc) (cond b)) s

/-- The common rule of conditional branches (R423, R580). -/
def branchInstr (i : Instr) (cond : Cpu → Bool) (r : Byte) (s : State) : Host.Outcome State Fault Refusal :=
  branchTo i cond (fun pc => relTarget pc r) s

/-- BPL (R581). -/
def execBpl (r : Byte) (s : State) : Host.Outcome State Fault Refusal := branchInstr (.bpl r) (fun b => !b.flag fN) r s

/-- BMI (R582). -/
def execBmi (r : Byte) (s : State) : Host.Outcome State Fault Refusal := branchInstr (.bmi r) (fun b => b.flag fN) r s

/-- BVC (R583). -/
def execBvc (r : Byte) (s : State) : Host.Outcome State Fault Refusal := branchInstr (.bvc r) (fun b => !b.flag fV) r s

/-- BVS (R584). -/
def execBvs (r : Byte) (s : State) : Host.Outcome State Fault Refusal := branchInstr (.bvs r) (fun b => b.flag fV) r s

/-- BCC (R585). -/
def execBcc (r : Byte) (s : State) : Host.Outcome State Fault Refusal := branchInstr (.bcc r) (fun b => !b.flag fC) r s

/-- BCS (R586). -/
def execBcs (r : Byte) (s : State) : Host.Outcome State Fault Refusal := branchInstr (.bcs r) (fun b => b.flag fC) r s

/-- BNE (R587). -/
def execBne (r : Byte) (s : State) : Host.Outcome State Fault Refusal := branchInstr (.bne r) (fun b => !b.flag fZ) r s

/-- BEQ (R588). -/
def execBeq (r : Byte) (s : State) : Host.Outcome State Fault Refusal := branchInstr (.beq r) (fun b => b.flag fZ) r s

/-- BRA (R589). -/
def execBra (r : Byte) (s : State) : Host.Outcome State Fault Refusal := branchInstr (.bra r) (fun _ => true) r s

/-- BRL (R424, R590): it always branches, so its cost is that of a taken branch (R1070). -/
def execBrl (rel : Word) (s : State) : Host.Outcome State Fault Refusal := branchTo (.brl rel) (fun _ => true) (· + rel) s

/-! ## Jumps -/

/-- JMP addr (R591). -/
def execJmp (a : Word) (s : State) : Host.Outcome State Fault Refusal :=
  regInstr (.jmp a) (fun b => { b with pc := a }) s

/-- JMP (addr) (R592). -/
def execJmpInd (a : Word) (s : State) : Host.Outcome State Fault Refusal :=
  runInstr (.jmpInd a) (do
    jumpTo (← absIndirect a)
    return Facts.plain) s

/-- JMP (addr,X) (R593). -/
def execJmpIndX (a : Word) (s : State) : Host.Outcome State Fault Refusal :=
  runInstr (.jmpIndX a) (do
    jumpTo (← absIndexedIndirect a)
    return Facts.plain) s

/-- JML long (R594). -/
def execJml (a : Addr) (s : State) : Host.Outcome State Fault Refusal :=
  regInstr (.jml a) (fun b => { b with pc := offOf a, pbr := bankOf a }) s

/-- JML [addr] (R595). -/
def execJmlInd (a : Word) (s : State) : Host.Outcome State Fault Refusal :=
  runInstr (.jmlInd a) (do
    jumpLong (← absIndirectLong a)
    return Facts.plain) s

/-! ## Calls -/

/-- JSR addr: pushes the address of its own last byte (R596). -/
def execJsr (a : Word) (s : State) : Host.Outcome State Fault Refusal :=
  runInstr (.jsr a) (do
    push16 ((← getCpu).pc - 1)
    jumpTo a
    return Facts.plain) s

/-- JSR (addr,X): the push precedes the pointer read (R597). -/
def execJsrIndX (a : Word) (s : State) : Host.Outcome State Fault Refusal :=
  runInstr (.jsrIndX a) (do
    push16 ((← getCpu).pc - 1)
    jumpTo (← absIndexedIndirect a)
    return Facts.plain) s

/-- JSL (R598). -/
def execJsl (a : Addr) (s : State) : Host.Outcome State Fault Refusal :=
  runInstr (.jsl a) (do
    push8 (← getCpu).pbr
    push16 ((← getCpu).pc - 1)
    jumpLong a
    return Facts.plain) s

/-! ## Returns -/

/-- RTS (R599). -/
def execRts (s : State) : Host.Outcome State Fault Refusal :=
  runInstr .rts (do
    let t ← pull16
    jumpTo (t + 1)
    return Facts.plain) s

/-- RTL (R600). -/
def execRtl (s : State) : Host.Outcome State Fault Refusal :=
  runInstr .rtl (do
    let t ← pull16
    jumpTo (t + 1)
    let k ← pull8
    onCpu fun b => { b with pbr := k }
    return Facts.plain) s

/-- RTI (R601). -/
def execRti (s : State) : Host.Outcome State Fault Refusal :=
  runInstr .rti (do
    returnFromInterrupt
    return Facts.plain) s

/-! ## Software interrupts -/

/-- BRK: its signature byte has no effect (R602, R808). -/
def execBrk (sig : Byte) (s : State) : Host.Outcome State Fault Refusal :=
  runInstr (.brk sig) (do
    interrupt .brk (← getCpu).pc
    return Facts.plain) s

/-- COP: its signature byte has no effect (R603, R808). -/
def execCop (sig : Byte) (s : State) : Host.Outcome State Fault Refusal :=
  runInstr (.cop sig) (do
    interrupt .cop (← getCpu).pc
    return Facts.plain) s

end Sys2Proof.Machine
end

