-- ==== Sys2Proof/Machine/Stack.lean ====
section
/-!
DEFINITION. The meanings of the stack instructions (42_stack.md, R502 to R517).
-/

namespace Sys2Proof.Machine

/-! ## Pushes -/

/-- PHA (R502). -/
def execPha (s : State) : Host.Outcome State Fault Refusal :=
  runInstr .pha (do
    let b ← getCpu
    pushW (b.acc b.mW) b.mW
    return Facts.plain) s

/-- PHX (R503). -/
def execPhx (s : State) : Host.Outcome State Fault Refusal :=
  runInstr .phx (do
    let b ← getCpu
    pushW b.x b.xW
    return Facts.plain) s

/-- PHY (R504). -/
def execPhy (s : State) : Host.Outcome State Fault Refusal :=
  runInstr .phy (do
    let b ← getCpu
    pushW b.y b.xW
    return Facts.plain) s

/-- PHP (R505). -/
def execPhp (s : State) : Host.Outcome State Fault Refusal :=
  runInstr .php (do
    push8 (← getCpu).p
    return Facts.plain) s

/-- PHB (R506). -/
def execPhb (s : State) : Host.Outcome State Fault Refusal :=
  runInstr .phb (do
    push8 (← getCpu).dbr
    return Facts.plain) s

/-- PHK (R507). -/
def execPhk (s : State) : Host.Outcome State Fault Refusal :=
  runInstr .phk (do
    push8 (← getCpu).pbr
    return Facts.plain) s

/-- PHD (R508). -/
def execPhd (s : State) : Host.Outcome State Fault Refusal :=
  runInstr .phd (do
    push16 (← getCpu).d
    return Facts.plain) s

/-! ## Pulls -/

/-- PLA (R509). -/
def execPla (s : State) : Host.Outcome State Fault Refusal :=
  runInstr .pla (do
    let w := (← getCpu).mW
    let v ← pullW w
    onCpu fun b => (b.setAcc w v).setNZ v w
    return Facts.plain) s

/-- PLX (R510). -/
def execPlx (s : State) : Host.Outcome State Fault Refusal :=
  runInstr .plx (do
    let w := (← getCpu).xW
    let v ← pullW w
    onCpu fun b => (b.setX w v).setNZ v w
    return Facts.plain) s

/-- PLY (R511). -/
def execPly (s : State) : Host.Outcome State Fault Refusal :=
  runInstr .ply (do
    let w := (← getCpu).xW
    let v ← pullW w
    onCpu fun b => (b.setY w v).setNZ v w
    return Facts.plain) s

/-- PLP (R512). -/
def execPlp (s : State) : Host.Outcome State Fault Refusal :=
  runInstr .plp (do
    let v ← pull8
    onCpu (·.writeP v)
    return Facts.plain) s

/-- PLB (R513). -/
def execPlb (s : State) : Host.Outcome State Fault Refusal :=
  runInstr .plb (do
    let v ← pull8
    onCpu fun b => { b with dbr := v }.setNZ (zext v) .w8
    return Facts.plain) s

/-- PLD (R514). -/
def execPld (s : State) : Host.Outcome State Fault Refusal :=
  runInstr .pld (do
    let v ← pull16
    onCpu fun b => { b with d := v }.setNZ v .w16
    return Facts.plain) s

/-! ## Push effective address -/

/-- PEA (R515). -/
def execPea (v : Word) (s : State) : Host.Outcome State Fault Refusal :=
  runInstr (.pea v) (do
    push16 v
    return Facts.plain) s

/-- PEI: the pointer is never page-wrapped (R516). -/
def execPei (o : Byte) (s : State) : Host.Outcome State Fault Refusal :=
  runInstr (.pei o) (do
    let v ← memRead ((← getCpu).dpnLoc (zext o)) .w16
    push16 v
    return Facts.plain) s

/-- PER (R517). -/
def execPer (rel : Word) (s : State) : Host.Outcome State Fault Refusal :=
  runInstr (.per rel) (do
    push16 ((← getCpu).pc + rel)
    return Facts.plain) s

end Sys2Proof.Machine
end

