-- ==== Sys2Proof/Machine/System.lean ====
section
/-!
DEFINITION. The meanings of the status, mode and system instructions (45_system_flags.md, R620 to R634).
-/

namespace Sys2Proof.Machine

/-! ## Single flags -/

/-- CLC (R621). -/
def execClc (s : State) : Host.Outcome State Fault Refusal := regInstr .clc (·.setFlag fC false) s

/-- SEC (R622). -/
def execSec (s : State) : Host.Outcome State Fault Refusal := regInstr .sec (·.setFlag fC true) s

/-- CLI (R623). -/
def execCli (s : State) : Host.Outcome State Fault Refusal := regInstr .cli (·.setFlag fI false) s

/-- SEI (R624). -/
def execSei (s : State) : Host.Outcome State Fault Refusal := regInstr .sei (·.setFlag fI true) s

/-- CLD (R625). -/
def execCld (s : State) : Host.Outcome State Fault Refusal := regInstr .cld (·.setFlag fD false) s

/-- SED (R626). -/
def execSed (s : State) : Host.Outcome State Fault Refusal := regInstr .sed (·.setFlag fD true) s

/-- CLV (R627). -/
def execClv (s : State) : Host.Outcome State Fault Refusal := regInstr .clv (·.setFlag fV false) s

/-! ## Several flags -/

/-- REP (R628). -/
def execRep (v : Byte) (s : State) : Host.Outcome State Fault Refusal :=
  regInstr (.rep v) (fun b => b.writeP (b.p &&& ~~~v)) s

/-- SEP (R629). -/
def execSep (v : Byte) (s : State) : Host.Outcome State Fault Refusal :=
  regInstr (.sep v) (fun b => b.writeP (b.p ||| v)) s

/-- XCE: entering emulation mode sets M and X, clears the index high bytes and puts S in page 1 (R630). -/
def Cpu.exchangeModes (b : Cpu) : Cpu :=
  let b' := { b.setFlag fC b.e with e := b.flag fC }
  if b'.e then
    { b' with p := b'.p ||| 0x30, x := b'.x &&& 0x00FF, y := b'.y &&& 0x00FF, s := mkWord 0x01 (lo b'.s) }
  else b'

/-- XCE (R630). -/
def execXce (s : State) : Host.Outcome State Fault Refusal := regInstr .xce Cpu.exchangeModes s

/-! ## Miscellaneous -/

/-- NOP (R631). -/
def execNop (s : State) : Host.Outcome State Fault Refusal := regInstr .nop id s

/-- WDM: a two-byte no-operation (R632). -/
def execWdm (v : Byte) (s : State) : Host.Outcome State Fault Refusal := regInstr (.wdm v) id s

/-- WAI (R633). -/
def execWai (s : State) : Host.Outcome State Fault Refusal := regInstr .wai (fun b => { b with waiting := true }) s

/-- STP (R634). -/
def execStp (s : State) : Host.Outcome State Fault Refusal := regInstr .stp (fun b => { b with stopped := true }) s

end Sys2Proof.Machine
end

