-- ==== Sys2Proof/Machine/Dispatch.lean ====
section
/-!
DEFINITION. One arm per instruction (R433).
-/

namespace Sys2Proof.Machine

def exec (i : Instr) (s : State) : Host.Outcome State Fault Refusal :=
  match i with
  | .lda src => Sys2Proof.Machine.execLda src s
  | .ldx src => Sys2Proof.Machine.execLdx src s
  | .ldy src => Sys2Proof.Machine.execLdy src s
  | .sta m => Sys2Proof.Machine.execSta m s
  | .stx m => Sys2Proof.Machine.execStx m s
  | .sty m => Sys2Proof.Machine.execSty m s
  | .stz m => Sys2Proof.Machine.execStz m s
  | .tax => Sys2Proof.Machine.execTax s
  | .tay => Sys2Proof.Machine.execTay s
  | .txa => Sys2Proof.Machine.execTxa s
  | .tya => Sys2Proof.Machine.execTya s
  | .txy => Sys2Proof.Machine.execTxy s
  | .tyx => Sys2Proof.Machine.execTyx s
  | .tsx => Sys2Proof.Machine.execTsx s
  | .txs => Sys2Proof.Machine.execTxs s
  | .tcs => Sys2Proof.Machine.execTcs s
  | .tsc => Sys2Proof.Machine.execTsc s
  | .tcd => Sys2Proof.Machine.execTcd s
  | .tdc => Sys2Proof.Machine.execTdc s
  | .xba => Sys2Proof.Machine.execXba s
  | .mvn dst src => Sys2Proof.Machine.execMvn dst src s
  | .mvp dst src => Sys2Proof.Machine.execMvp dst src s
  | .pha => Sys2Proof.Machine.execPha s
  | .phx => Sys2Proof.Machine.execPhx s
  | .phy => Sys2Proof.Machine.execPhy s
  | .php => Sys2Proof.Machine.execPhp s
  | .phb => Sys2Proof.Machine.execPhb s
  | .phk => Sys2Proof.Machine.execPhk s
  | .phd => Sys2Proof.Machine.execPhd s
  | .pla => Sys2Proof.Machine.execPla s
  | .plx => Sys2Proof.Machine.execPlx s
  | .ply => Sys2Proof.Machine.execPly s
  | .plp => Sys2Proof.Machine.execPlp s
  | .plb => Sys2Proof.Machine.execPlb s
  | .pld => Sys2Proof.Machine.execPld s
  | .pea v => Sys2Proof.Machine.execPea v s
  | .pei o => Sys2Proof.Machine.execPei o s
  | .per rel => Sys2Proof.Machine.execPer rel s
  | .adc src => Sys2Proof.Machine.execAdc src s
  | .sbc src => Sys2Proof.Machine.execSbc src s
  | .cmp src => Sys2Proof.Machine.execCmp src s
  | .cpx src => Sys2Proof.Machine.execCpx src s
  | .cpy src => Sys2Proof.Machine.execCpy src s
  | .and src => Sys2Proof.Machine.execAnd src s
  | .ora src => Sys2Proof.Machine.execOra src s
  | .eor src => Sys2Proof.Machine.execEor src s
  | .bit src => Sys2Proof.Machine.execBit src s
  | .tsb m => Sys2Proof.Machine.execTsb m s
  | .trb m => Sys2Proof.Machine.execTrb m s
  | .inc op => Sys2Proof.Machine.execInc op s
  | .dec op => Sys2Proof.Machine.execDec op s
  | .inx => Sys2Proof.Machine.execInx s
  | .iny => Sys2Proof.Machine.execIny s
  | .dex => Sys2Proof.Machine.execDex s
  | .dey => Sys2Proof.Machine.execDey s
  | .asl op => Sys2Proof.Machine.execAsl op s
  | .lsr op => Sys2Proof.Machine.execLsr op s
  | .rol op => Sys2Proof.Machine.execRol op s
  | .ror op => Sys2Proof.Machine.execRor op s
  | .bpl rel => Sys2Proof.Machine.execBpl rel s
  | .bmi rel => Sys2Proof.Machine.execBmi rel s
  | .bvc rel => Sys2Proof.Machine.execBvc rel s
  | .bvs rel => Sys2Proof.Machine.execBvs rel s
  | .bcc rel => Sys2Proof.Machine.execBcc rel s
  | .bcs rel => Sys2Proof.Machine.execBcs rel s
  | .bne rel => Sys2Proof.Machine.execBne rel s
  | .beq rel => Sys2Proof.Machine.execBeq rel s
  | .bra rel => Sys2Proof.Machine.execBra rel s
  | .brl rel => Sys2Proof.Machine.execBrl rel s
  | .jmp a => Sys2Proof.Machine.execJmp a s
  | .jmpInd a => Sys2Proof.Machine.execJmpInd a s
  | .jmpIndX a => Sys2Proof.Machine.execJmpIndX a s
  | .jml a => Sys2Proof.Machine.execJml a s
  | .jmlInd a => Sys2Proof.Machine.execJmlInd a s
  | .jsr a => Sys2Proof.Machine.execJsr a s
  | .jsrIndX a => Sys2Proof.Machine.execJsrIndX a s
  | .jsl a => Sys2Proof.Machine.execJsl a s
  | .rts => Sys2Proof.Machine.execRts s
  | .rtl => Sys2Proof.Machine.execRtl s
  | .rti => Sys2Proof.Machine.execRti s
  | .brk sig => Sys2Proof.Machine.execBrk sig s
  | .cop sig => Sys2Proof.Machine.execCop sig s
  | .clc => Sys2Proof.Machine.execClc s
  | .sec => Sys2Proof.Machine.execSec s
  | .cli => Sys2Proof.Machine.execCli s
  | .sei => Sys2Proof.Machine.execSei s
  | .cld => Sys2Proof.Machine.execCld s
  | .sed => Sys2Proof.Machine.execSed s
  | .clv => Sys2Proof.Machine.execClv s
  | .rep v => Sys2Proof.Machine.execRep v s
  | .sep v => Sys2Proof.Machine.execSep v s
  | .xce => Sys2Proof.Machine.execXce s
  | .nop => Sys2Proof.Machine.execNop s
  | .wdm v => Sys2Proof.Machine.execWdm v s
  | .wai => Sys2Proof.Machine.execWai s
  | .stp => Sys2Proof.Machine.execStp s
  | .aMovA src => Sys2Proof.Machine.execAMovA src s
  | .aMovX src => Sys2Proof.Machine.execAMovX src s
  | .aMovY src => Sys2Proof.Machine.execAMovY src s
  | .aMovStA m => Sys2Proof.Machine.execAMovStA m s
  | .aMovStX m => Sys2Proof.Machine.execAMovStX m s
  | .aMovStY m => Sys2Proof.Machine.execAMovStY m s
  | .aMovXA => Sys2Proof.Machine.execAMovXA s
  | .aMovAX => Sys2Proof.Machine.execAMovAX s
  | .aMovYA => Sys2Proof.Machine.execAMovYA s
  | .aMovAY => Sys2Proof.Machine.execAMovAY s
  | .aMovXSp => Sys2Proof.Machine.execAMovXSp s
  | .aMovSpX => Sys2Proof.Machine.execAMovSpX s
  | .aMovDD src dst => Sys2Proof.Machine.execAMovDD src dst s
  | .aMovDI v d => Sys2Proof.Machine.execAMovDI v d s
  | .aMovIncA => Sys2Proof.Machine.execAMovIncA s
  | .aMovAInc => Sys2Proof.Machine.execAMovAInc s
  | .aAdc op => Sys2Proof.Machine.execAAdc op s
  | .aSbc op => Sys2Proof.Machine.execASbc op s
  | .aCmp op => Sys2Proof.Machine.execACmp op s
  | .aCmpX src => Sys2Proof.Machine.execACmpX src s
  | .aCmpY src => Sys2Proof.Machine.execACmpY src s
  | .aAnd op => Sys2Proof.Machine.execAAnd op s
  | .aOr op => Sys2Proof.Machine.execAOr op s
  | .aEor op => Sys2Proof.Machine.execAEor op s
  | .aInc op => Sys2Proof.Machine.execAInc op s
  | .aDec op => Sys2Proof.Machine.execADec op s
  | .aAsl op => Sys2Proof.Machine.execAAsl op s
  | .aLsr op => Sys2Proof.Machine.execALsr op s
  | .aRol op => Sys2Proof.Machine.execARol op s
  | .aRor op => Sys2Proof.Machine.execARor op s
  | .aXcn => Sys2Proof.Machine.execAXcn s
  | .aMovwLd o => Sys2Proof.Machine.execAMovwLd o s
  | .aMovwSt o => Sys2Proof.Machine.execAMovwSt o s
  | .aIncw o => Sys2Proof.Machine.execAIncw o s
  | .aDecw o => Sys2Proof.Machine.execADecw o s
  | .aAddw o => Sys2Proof.Machine.execAAddw o s
  | .aSubw o => Sys2Proof.Machine.execASubw o s
  | .aCmpw o => Sys2Proof.Machine.execACmpw o s
  | .aMul => Sys2Proof.Machine.execAMul s
  | .aDiv => Sys2Proof.Machine.execADiv s
  | .aDaa => Sys2Proof.Machine.execADaa s
  | .aDas => Sys2Proof.Machine.execADas s
  | .aBra rel => Sys2Proof.Machine.execABra rel s
  | .aBeq rel => Sys2Proof.Machine.execABeq rel s
  | .aBne rel => Sys2Proof.Machine.execABne rel s
  | .aBcs rel => Sys2Proof.Machine.execABcs rel s
  | .aBcc rel => Sys2Proof.Machine.execABcc rel s
  | .aBvs rel => Sys2Proof.Machine.execABvs rel s
  | .aBvc rel => Sys2Proof.Machine.execABvc rel s
  | .aBmi rel => Sys2Proof.Machine.execABmi rel s
  | .aBpl rel => Sys2Proof.Machine.execABpl rel s
  | .aBbs b d rel => Sys2Proof.Machine.execABbs b d rel s
  | .aBbc b d rel => Sys2Proof.Machine.execABbc b d rel s
  | .aCbne d rel => Sys2Proof.Machine.execACbne d rel s
  | .aCbneX d rel => Sys2Proof.Machine.execACbneX d rel s
  | .aDbnz d rel => Sys2Proof.Machine.execADbnz d rel s
  | .aDbnzY rel => Sys2Proof.Machine.execADbnzY rel s
  | .aJmp a => Sys2Proof.Machine.execAJmp a s
  | .aJmpInd a => Sys2Proof.Machine.execAJmpInd a s
  | .aCall a => Sys2Proof.Machine.execACall a s
  | .aPcall u => Sys2Proof.Machine.execAPcall u s
  | .aTcall n => Sys2Proof.Machine.execATcall n s
  | .aBrk => Sys2Proof.Machine.execABrk s
  | .aRet => Sys2Proof.Machine.execARet s
  | .aReti => Sys2Proof.Machine.execAReti s
  | .aPush r => Sys2Proof.Machine.execAPush r s
  | .aPop r => Sys2Proof.Machine.execAPop r s
  | .aSet1 b d => Sys2Proof.Machine.execASet1 b d s
  | .aClr1 b d => Sys2Proof.Machine.execAClr1 b d s
  | .aTset1 a => Sys2Proof.Machine.execATset1 a s
  | .aTclr1 a => Sys2Proof.Machine.execATclr1 a s
  | .aAnd1 neg m b => Sys2Proof.Machine.execAAnd1 neg m b s
  | .aOr1 neg m b => Sys2Proof.Machine.execAOr1 neg m b s
  | .aEor1 m b => Sys2Proof.Machine.execAEor1 m b s
  | .aNot1 m b => Sys2Proof.Machine.execANot1 m b s
  | .aMov1Ld m b => Sys2Proof.Machine.execAMov1Ld m b s
  | .aMov1St m b => Sys2Proof.Machine.execAMov1St m b s
  | .aClrc => Sys2Proof.Machine.execAClrc s
  | .aSetc => Sys2Proof.Machine.execASetc s
  | .aNotc => Sys2Proof.Machine.execANotc s
  | .aClrv => Sys2Proof.Machine.execAClrv s
  | .aClrp => Sys2Proof.Machine.execAClrp s
  | .aSetp => Sys2Proof.Machine.execASetp s
  | .aEi => Sys2Proof.Machine.execAEi s
  | .aDi => Sys2Proof.Machine.execADi s
  | .aNop => Sys2Proof.Machine.execANop s
  | .aSleep => Sys2Proof.Machine.execASleep s
  | .aStop => Sys2Proof.Machine.execAStop s

end Sys2Proof.Machine
end

