-- ==== Sys2Proof/Machine/Fetch.lean ====
section
/-!
DEFINITION. Fetching an instruction (R400, R401, R635), and placing one where the next fetch reads (the host's `withFetchWord`).
-/

namespace Sys2Proof.Machine

/-- `FetchByte()` (R401). -/
def fetchByte : M Byte := do
  let b ← getCpu
  let v ← read8 (mkAddr b.pbr b.pc)
  onCpu fun b => { b with pc := b.pc + 1 }
  return v

/-- `n` fetches (R400). -/
def fetchN : Nat → M (List Byte)
  | 0 => return []
  | n + 1 => do
    let v ← fetchByte
    let vs ← fetchN n
    return v :: vs

/-- The instruction at PBR:PC, PC left at `PC_next`; an unimplemented opcode is fatal: the bus access of its fetch stands (R401,
R830), and no register of the CPU has changed, PC being at the opcode (R400, R402, R635; log 11). -/
def fetchInstr : M Instr := do
  let s ← get
  let op ← fetchByte
  if s.cfg.unimplOps.contains op then
    onCpu fun b => { b with pc := s.cpu.pc }
    raise (.unimplementedOpcode s.cpu.pbr s.cpu.pc op)
  let m := s.cpu.flag fM
  let x := s.cpu.flag fX
  let bs ← fetchN (((mainShape op).map (·.operands m x)).getD 0)
  match decodeMain m x (op :: bs) with
  | some (i, _) => return i
  | none => throw (.refuse .undecodable)

/-! ## Placing an instruction from outside (log 2) -/

/-- A byte placed where `Read8(a)` reads it: ROM too, which is loaded from outside; an unmapped address holds nothing. -/
def pokeByte (a : Addr) (v : Byte) (s : State) : State :=
  match rpage s.cfg a with
  | some (.rom, i) => { s with cfg := { s.cfg with rom := Cells.write 0 i v s.cfg.rom } }
  | some (r, i) => regionWrite r i v s
  | none => s

/-- Bytes placed at PBR:PC, PBR:PC+1, …, the offset wrapping in the bank (R401). -/
def pokeCode (bank : Byte) : Word → List Byte → State → State
  | _, [], s => s
  | off, v :: vs, s => pokeCode bank (off + 1) vs (pokeByte (mkAddr bank off) v s)

/-- The four bytes of a table word, the lowest first, with the bits above `nbits` zero. -/
def tableBytes (nbits w : Nat) : List Byte :=
  let v := w % 2 ^ nbits
  [BitVec.ofNat 8 v, BitVec.ofNat 8 (v / 0x100), BitVec.ofNat 8 (v / 0x10000), BitVec.ofNat 8 (v / 0x1000000)]

/-- A state whose next step runs the instruction of a table word: its bytes at the fetch address, the CPU neither waiting nor stopped. -/
def placeFetchWord (s : State) (nbits w : Nat) : State :=
  pokeCode s.cpu.pbr s.cpu.pc (tableBytes nbits w) (s.onCpu fun b => { b with waiting := false, stopped := false })

end Sys2Proof.Machine
end

