-- ==== Sys2Proof/Machine/Scheduler.lean ====
section
/-!
DEFINITION. The scheduler: the events' handlers, event processing, time (R850 to R857).
-/

namespace Sys2Proof.Machine

/-- The HBLANK event (R853). -/
def handleHblank (ts : Nat) : M Unit := do
  let s ← get
  if s.sched.vline < 224 then renderLine s.sched.vline
  modify (·.onIo fun r => { r with hblank := true })
  pushEvent .eol (ts + (s.cfg.lineMaster - s.cfg.hblankMaster))

/-- The EOL event (R854). -/
def handleEol (ts : Nat) : M Unit := do
  let s ← get
  set ((s.onIo fun r => { r with hblank := false }).onSched fun q => { q with vline := q.vline + 1 })
  if (← get).sched.vline = 224 then
    modify fun s => (s.onIo fun r => { r with vblank := true, rdnmiFlag := true }).onSched
      fun q => { q with frameComplete := true }
    if (← get).io.nmiEn then fireNmi
  if (← get).sched.vline = 262 then
    modify fun s => (s.onSched fun q => { q with vline := 0 }).onIo
      fun r => { r with vblank := false, rdnmiFlag := false }
  pushEvent .hblank (ts + s.cfg.hblankMaster)

/-- `Handle(e)` (R852 to R857). -/
def handleEvent (e : Event) : M Unit :=
  match e.kind with
  | .hblank => handleHblank e.ts
  | .eol => handleEol e.ts
  | .assertNmi => fireNmi
  | .sentinel => raise (.sentinelFired e.ts)

/-- `ProcessEvents()` (R852), at most `fuel` events; running out is refused (log 18). -/
def processEvents : Nat → M Unit
  | 0 => throw (.refuse .eventLoopEndless)
  | n + 1 => do
    let s ← get
    match s.sched.queue with
    | [] => pure ()
    | e :: rest =>
      if e.ts ≤ s.sched.master then
        set (s.onSched fun q => { q with queue := rest })
        handleEvent e
        processEvents n
      else pure ()

/-- More events than can come due before the sentinel: two per line, and a line takes at least one tick (R857, R859; log 18). -/
def eventFuel (s : State) : Nat := 2 ^ 66 + s.sched.queue.length

/-- The due events processed (R852). -/
def runEvents : M Unit := do processEvents (eventFuel (← get))

/-- Cycles converted to master ticks (R855). -/
def convertCycles (s : State) : State :=
  (s.onSched fun q => { q with master := q.master + s.cpu.pending * s.cfg.masterPerCycle }).onCpu
    fun b => { b with pending := 0 }

/-- The end of a step in which an instruction ran: time passes, due events are processed (R851, R855). -/
def settle (s : State) : Host.Outcome State Fault Refusal := outcomeOf (runEvents.run (convertCycles s))

/-- The idle branch: the master clock moves on to the next event (R851). -/
def idleAdvance (s : State) : State :=
  match s.sched.queue with
  | [] => s
  | e :: _ => s.onSched fun q => { q with master := max q.master e.ts }

/-- A step of a waiting or stopped CPU (R851, R833; log 10). -/
def idleStep (s : State) : Host.Outcome State Fault Refusal := outcomeOf (runEvents.run (idleAdvance s))

end Sys2Proof.Machine
end

