-- ==== Sys2Proof/Machine/Step.lean ====
section
/-!
DEFINITION. One step of the machine (R851).
-/

namespace Sys2Proof.Machine

/-- `step()` (R851): a fatal state stays (R830); before the first reset it is refused (R1065); a waiting or stopped CPU idles;
otherwise one instruction runs, its cycles become time, and the due events are processed. -/
def step (s : State) : Host.Outcome State Fault Refusal :=
  match s.fatal with
  | some f => .fault (.fatal f s)
  | none =>
    if !s.resetDone then .refused .stepBeforeReset
    else if s.cpu.stopped || s.cpu.waiting then idleStep s
    else
      match fetchInstr.run s with
      | .error (.fatal f) s' => .fault (.fatal f (s'.setFatal f))
      | .error (.refuse r) _ => .refused r
      | .ok i s' =>
        match exec i s' with
        | .next s'' => settle s''
        | .fault f => .fault f
        | .refused r => .refused r

/-- The state with a table word's instruction where `step` fetches its next instruction (log 2). -/
def State.withFetchWord (s : State) (nbits w : Nat) : State := placeFetchWord s nbits w

end Sys2Proof.Machine
end

