-- ==== Sys2Proof/Machine/HostInterface.lean ====
section
/-!
DEFINITION. The host's moves between steps (R1064): power-on, loading a cartridge, reset, running a frame, swapping buffers,
debug access, and what the host gets back. None is part of a step (log 21).
-/

namespace Sys2Proof.Machine

/-- Power-on with a set of parameters: every element at its power-on value, no reset yet (R1051; log 12).
The main CPU's registers before the first `reset()` are not defined by the spec; no step can run before it (R1065). -/
def powerOn (cfg : Config) : State :=
  { cfg := cfg
    cpu := Cpu.reset 0
    apu := Apu.reset cfg.init 0
    ppu := Ppu.reset cfg.init
    dma := cfg.init.dma
    hdmaen := 0
    math := cfg.init.math
    io := IoRegs.reset
    sched := Sched.reset cfg
    wram := cfg.init.wram
    wmadd := 0
    sram := cfg.init.sram
    fatal := none
    marks := Marks.none
    draws := 0
    resetDone := false }

/-- The load parameters of R1060; `save` is the battery save file, absent for a cartridge without a battery or with no file yet. -/
structure Cartridge where
  mapper   : Mapper
  rom      : Cells Byte
  romSize  : Nat
  sramSize : Nat
  save     : Option (Nat × Cells Byte)
  /-- The cartridge has a battery: a missing save file is created zero-filled. -/
  battery  : Bool
deriving DecidableEq, Repr

/-- What cartridge RAM holds after a load: the save file, zeros for a battery without one, else `P_INIT` (R190, R1060). -/
def loadedSram (init : PInit) (k : Cartridge) : Cells Byte :=
  match k.save with
  | some (_, bytes) => bytes
  | none => if k.battery then [] else init.sram

/-- The load error of a cartridge, if any (R1060). Where both conditions hold, the size of the save file is reported and not the map
that cannot be built: the spec gives no order (DESIGN CHOICE, log 24). -/
def loadError (cfg : Config) (k : Cartridge) : Option Fatal :=
  match k.save with
  | some (size, _) => if size ≠ k.sramSize then some (.loadSramSize size k.sramSize) else mapError
  | none => mapError
where
  /-- LoROMLarge without its map, or an empty ROM (R224, R1060). -/
  mapError : Option Fatal :=
    if (k.mapper = .loRomLarge ∧ cfg.largeMap = none) ∨ k.romSize = 0 then some (.loadMapper k.mapper) else none

/-- The cartridge replaced, nothing else changed (R1062); a load error leaves the core fatal (R1060). That a load that raises
replaces nothing, the old cartridge and cartridge RAM staying, is the model's choice (DESIGN CHOICE, log 24). -/
def loadCartridge (k : Cartridge) (s : State) : State :=
  match loadError s.cfg k with
  | some f => s.setFatal f
  | none =>
    { s with
      cfg := { s.cfg with mapper := k.mapper, rom := k.rom, romSize := k.romSize, sramSize := k.sramSize }
      sram := loadedSram s.cfg.init k }

/-- A new run (R1066): power-on with the parameters of the old one (log 24). The model's own draw counters go on (log 8). -/
def newRun (s : State) : State :=
  let p := powerOn s.cfg
  { p with draws := s.draws, apu := { p.apu with draws := s.apu.draws } }

/-- `loadROM` (R1060, R1062): before the first `reset()` of a run the cartridge is replaced and nothing else; a later call starts a new
run, in which `reset()` must come before the first step again (R1065, R1066). -/
def loadRom (k : Cartridge) (s : State) : State := loadCartridge k (if s.resetDone then newRun s else s)

/-- The fast-path byte at an address, if its page is mapped (R212). -/
def debugByte? (s : State) (a : Addr) : Option Byte := (rpage s.cfg a).map fun p => regionRead s p.1 p.2

/-- The reset vector (R1050): two fast-path reads of bank 0. Where a map of the parameter leaves them unmapped they read
as the debug sentinel (log 12); with LoROM and HiROM they are ROM (R226). -/
def resetVector (s : State) : Word :=
  mkWord ((debugByte? s 0x00FFFD).getD s.cfg.debugSentinel) ((debugByte? s 0x00FFFC).getD s.cfg.debugSentinel)

/-- `ResetRest()`, under `P_RESET_SCOPE = full` (R1053, R862); the rebuilt events take the numbers of power-on (log 22). -/
def resetRest (s : State) : State :=
  { s with
    ppu := Ppu.reset s.cfg.init
    dma := s.cfg.init.dma
    hdmaen := 0
    math := s.cfg.init.math
    io := IoRegs.reset
    sched :=
      { s.sched with
        queue := startQueue (s.sched.master + s.cfg.hblankMaster)
        vline := 0
        frameComplete := false } }

/-- `reset()` (R1050, R1053, R1054). The audio side's draw counter, the model's own, is not reset (log 8). -/
def resetMachine (s : State) : State :=
  let s' :=
    { s with
      cpu := Cpu.reset (resetVector s)
      apu := { Apu.reset s.cfg.init s.sched.master with draws := s.apu.draws }
      resetDone := true }
  match s.cfg.resetScope with
  | .asBuilt => s'
  | .full => resetRest s'

/-- `swapBuffers()` (R911). -/
def swapBuffers (s : State) : State := s.onPpu fun u => { u with wbuf := !u.wbuf }

/-- The buffer the display reads, `fb[1 - wbuf]` (R911). -/
def displayBuffer (s : State) : Cells (List Rgba) := if s.ppu.wbuf then s.ppu.fb0 else s.ppu.fb1

/-- `DebugRead8(a)` (R212, R1063). -/
def debugRead8 (s : State) (a : Addr) : Byte := (debugByte? s a).getD s.cfg.debugSentinel

/-- `DebugWrite8(a, v)` (R212, R1063). -/
def debugWrite8 (a : Addr) (v : Byte) (s : State) : State :=
  match wpage s.cfg a with
  | some (r, i) => regionWrite r i v s
  | none => s

/-! ## What the host gets back, and frames -/

/-- What a host interaction that runs steps gives back (R18, R851, R1064). -/
inductive Report where
  /-- `Ok`: the next state. It may have unmodelled marks set, which the state shows (R832). -/
  | ok (s : State)
  /-- `Halted`: the main CPU has executed STP; the state reached (R634, R833). -/
  | halted (s : State)
  /-- `Fatal(kind, info)` and the final state (R830). -/
  | fatal (why : Fatal) (s : State)
  /-- The model refuses the interaction (R1065; logs 18 and 21). -/
  | refused (why : Refusal)
deriving DecidableEq, Repr

/-- The outcome of a step as the host sees it: a next state whose main CPU is stopped is `Halted` (R634, R851). -/
def report (o : Host.Outcome State Fault Refusal) : Report :=
  match o with
  | .next s => if s.cpu.stopped then .halted s else .ok s
  | .fault (.fatal f s) => .fatal f s
  | .refused r => .refused r

/-- `step()` with the outcome it returns (R851). -/
def hostStep (s : State) : Report := report (step s)

/-- The loop of `runFrame()`, at most `n` steps; `none` if the frame is not complete by then (R858). -/
def stepsToFrame : Nat → State → Option Report
  | 0, _ => none
  | n + 1, s =>
    match step s with
    | .next s' => if s'.sched.frameComplete then some (report (.next s')) else stepsToFrame n s'
    | .fault f => some (report (.fault f))
    | .refused r => some (.refused r)

/-- The state in which the loop of `runFrame()` starts (R858). -/
def frameStart (s : State) : State := s.onSched fun q => { q with frameComplete := false }

/-- `runFrame()` returns `o`: the loop of R858, unbounded. -/
def FrameReturns (s : State) (o : Report) : Prop :=
  match s.fatal with
  | some f => o = .fatal f s
  | none => ∃ n, stepsToFrame n (frameStart s) = some o

/-- The ticks from one line event of a kind to the next (R853, R854, R859). -/
def linePeriod (cfg : Config) : Nat := cfg.lineMaster - cfg.hblankMaster + cfg.hblankMaster

/-- The timestamp of the line event that is queued (R859). -/
def lineEventTs (q : List Event) : Nat := ((q.find? fun e => e.kind.isLine).map (·.ts)).getD 0

/-- Steps that suffice for a frame: line 224 comes at most 262 lines after the line event that is queued, and every step but the first
moves the master clock, where an instruction takes any time at all (R858). -/
def frameBound (s : State) : Nat := lineEventTs s.sched.queue + 262 * linePeriod s.cfg - s.sched.master + 2

/-- `runFrame()` (R858); a frame that does not end within the bound is refused (log 21). -/
def runFrame (s : State) : Report :=
  match s.fatal with
  | some f => .fatal f s
  | none => (stepsToFrame (frameBound s) (frameStart s)).getD (.refused .frameEndless)

end Sys2Proof.Machine
end

