-- ==== Sys2Proof/Safety.lean ====
section
/-!
DEFINITION. What claims about a run are stated in: the bytes the page tables give, stores and the stack through them,
the form every memory keeps, the invariant of the machine, and what a safe state is.
-/

namespace Sys2Proof.Machine

/-! ## Bytes reached through the page tables (R210, R211) -/

/-- The byte a mapped address holds; `none` where the page is `Unmapped` and the access goes to the slow path (R210). -/
def State.byte? (s : State) (a : Addr) : Option Byte := (rpage s.cfg a).map fun p => regionRead s p.1 p.2

/-- The value of width w at a locator, low byte first, where every byte of it is mapped (R403). -/
def State.word? (s : State) (l : Loc) : Width → Option Word
  | .w8 => (s.byte? (l.at 0)).map zext
  | .w16 => (s.byte? (l.at 0)).bind fun b0 => (s.byte? (l.at 1)).map fun b1 => mkWord b1 b0

/-- The 24-bit pointer at a locator, where its three bytes are mapped (R417). -/
def State.far? (s : State) (l : Loc) : Option Addr :=
  (s.byte? (l.at 0)).bind fun b0 => (s.byte? (l.at 1)).bind fun b1 => (s.byte? (l.at 2)).map fun b2 =>
    mkAddr b2 (mkWord b1 b0)

/-- The locator of a memory operand and whether its index crosses a page, where its pointer, if it has one, is mapped
(R406 to R420). -/
def State.loc? (s : State) : AddrMode → Option (Loc × Bool)
  | .dp o => some (s.cpu.dpLoc (zext o), false)
  | .dpx o => some (s.cpu.dpLoc (zext o + s.cpu.x), false)
  | .dpy o => some (s.cpu.dpLoc (zext o + s.cpu.y), false)
  | .dpind o => (s.word? (s.cpu.dpLoc (zext o)) .w16).map fun p => (.lin (mkAddr s.cpu.dbr p), false)
  | .dpxind o => (s.word? (s.cpu.dpLoc (zext o + s.cpu.x)) .w16).map fun p => (.lin (mkAddr s.cpu.dbr p), false)
  | .dpindy o =>
    (s.word? (s.cpu.dpLoc (zext o)) .w16).map fun p =>
      (.lin (mkAddr s.cpu.dbr p + s.cpu.y.setWidth 24), decide (hi p ≠ hi (p + s.cpu.y)))
  | .dpindl o => (s.far? (.bank 0 (s.cpu.d + zext o))).map fun p => (.lin p, false)
  | .dpindly o => (s.far? (.bank 0 (s.cpu.d + zext o))).map fun p => (.lin (p + s.cpu.y.setWidth 24), false)
  | .sr o => some (.bank 0 (s.cpu.s + zext o), false)
  | .sriy o =>
    (s.word? (.bank 0 (s.cpu.s + zext o)) .w16).map fun p => (.lin (mkAddr s.cpu.dbr p + s.cpu.y.setWidth 24), false)
  | .abs a => some (.lin (mkAddr s.cpu.dbr a), false)
  | .absx a => some (.lin (mkAddr s.cpu.dbr a + s.cpu.x.setWidth 24), decide (hi a ≠ hi (a + s.cpu.x)))
  | .absy a => some (.lin (mkAddr s.cpu.dbr a + s.cpu.y.setWidth 24), decide (hi a ≠ hi (a + s.cpu.y)))
  | .long a => some (.lin a, false)
  | .longx a => some (.lin (a + s.cpu.x.setWidth 24), false)

/-- The value of a source operand of width w, where every byte it reads is mapped, and the facts its cost depends on. -/
def State.value? (s : State) (w : Width) : Src → Option (Word × Facts)
  | .imm v => some (Imm.value w v, Facts.plain)
  | .mem m => (s.loc? m).bind fun p => (s.word? p.1 w).map fun v => (v, Facts.index p.2)

/-- A byte stored at a writable address; `none` elsewhere (R211). -/
def State.poke? (a : Addr) (v : Byte) (s : State) : Option State :=
  (wpage s.cfg a).map fun p => regionWrite p.1 p.2 v s

/-- A value of width w stored at a locator, low byte first, where every byte of it is writable (R403). -/
def State.store? (l : Loc) (w : Width) (v : Word) (s : State) : Option State :=
  match w with
  | .w8 => s.poke? (l.at 0) (lo v)
  | .w16 => (s.poke? (l.at 0) (lo v)).bind (State.poke? (l.at 1) (hi v))

/-- The addresses a store of width w at a locator writes. -/
def Loc.bytes (l : Loc) : Width → List Addr
  | .w8 => [l.at 0]
  | .w16 => [l.at 0, l.at 1]

/-- A byte pushed, where the stack byte is writable (R500). -/
def State.push8? (v : Byte) (s : State) : Option State := (s.poke? (mkAddr 0 s.cpu.s) v).map (·.onCpu Cpu.decS)

/-- A word pushed, high byte first (R501). -/
def State.push16? (v : Word) (s : State) : Option State := (s.push8? (hi v)).bind (State.push8? (lo v))

/-- A value of width w pushed (R501). -/
def State.pushW? (v : Word) (w : Width) (s : State) : Option State :=
  match w with
  | .w8 => s.push8? (lo v)
  | .w16 => s.push16? v

/-- A byte pulled, where the stack byte is mapped: the byte, and the state with S moved (R500). -/
def State.pull8? (s : State) : Option (Byte × State) :=
  (s.byte? (mkAddr 0 s.cpu.incS.s)).map fun v => (v, s.onCpu Cpu.incS)

/-- A word pulled, low byte first (R501). -/
def State.pull16? (s : State) : Option (Word × State) :=
  s.pull8?.bind fun p => p.2.pull8?.map fun q => (mkWord q.1 p.1, q.2)

/-- A value of width w pulled (R501). -/
def State.pullW? (w : Width) (s : State) : Option (Word × State) :=
  match w with
  | .w8 => s.pull8?.map fun p => (zext p.1, p.2)
  | .w16 => s.pull16?

/-- `n` code bytes at PBR and an offset, the offset wrapping in the bank, where they are mapped (R401). -/
def State.code? (s : State) (bank : Byte) : Nat → Word → Option (List Byte)
  | 0, _ => some []
  | n + 1, off => (s.byte? (mkAddr bank off)).bind fun v => (s.code? bank n (off + 1)).map (v :: ·)

/-! ## What claims say of an instruction's result -/

/-- N is the top bit and Z the zero-ness of a value of width w; every other bit but those listed is as before (R15, R109).
Both CPUs keep n in bit 7 and z in bit 1 (R106, R123). -/
def NzAfter (p p' : Byte) (v : Word) (w : Width) (others : List Nat) : Prop :=
  p'.getLsbD 7 = v.getLsbD (w.bits - 1) ∧ p'.getLsbD 1 = decide (v &&& w.mask = 0) ∧
    ∀ i, i ≠ 7 → i ≠ 1 → i ∉ others → p'.getLsbD i = p.getLsbD i

/-- C after a value of width w is written to the accumulator: at 8 bits B is unchanged (R14, R100). -/
def accAfter (c : Word) (w : Width) (v : Word) : Word :=
  match w with
  | .w8 => (c &&& 0xFF00) ||| (v &&& 0x00FF)
  | .w16 => v

/-- A state whose main CPU ends an instruction with registers `b`: its cost, taken on the registers before it, is added to
`cycles` and kept in `pending` (R400, R855, R1070). -/
def State.ended (u : State) (i : Instr) (before : Cpu) (f : Facts) (b : Cpu) : State :=
  u.onCpu fun _ => Cpu.charge (instrCost u.cfg i before f) b

/-- Every byte a store of width w at a locator writes is writable (R211). -/
def State.writable (s : State) (l : Loc) (w : Width) : Bool := (l.bytes w).all fun a => (wpage s.cfg a).isSome

/-- Every byte whose cell is not the cell of one of the addresses listed reads as before. -/
def State.SameBytes (s t : State) (as : List Addr) : Prop :=
  ∀ a, (∀ b ∈ as, rpage s.cfg a ≠ rpage s.cfg b) → t.byte? a = s.byte? a

/-- `t` is `s` after a value of width w was stored at a locator, whatever became of the registers: the bytes stored read back,
every other byte is as before, and nothing but the main CPU and the two RAMs changes. -/
structure Stored (s t : State) (l : Loc) (w : Width) (v : Word) : Prop where
  frame : t = { s with cpu := t.cpu, wram := t.wram, sram := t.sram }
  bytes : s.SameBytes t (l.bytes w)
  low   : w = .w8 ∨ rpage s.cfg (l.at 0) ≠ rpage s.cfg (l.at 1) → t.byte? (l.at 0) = some (lo v)
  high  : w = .w16 → t.byte? (l.at 1) = some (hi v)

/-- The registers after `WriteP(v)` (R620). -/
def Cpu.withP (b : Cpu) (v : Byte) : Cpu :=
  let q := if b.e then v ||| 0x30 else v
  { b with
    p := q
    x := if q.getLsbD 4 then b.x &&& 0x00FF else b.x
    y := if q.getLsbD 4 then b.y &&& 0x00FF else b.y }

/-- The signed value of a value of width w. -/
def Width.signed (w : Width) (v : Word) : Int :=
  if v.getLsbD (w.bits - 1) then (v.toNat : Int) - 2 ^ w.bits else v.toNat

/-- An integer a signed value of width w cannot hold. -/
def Width.outOfRange (w : Width) (k : Int) : Bool := decide (k < -2 ^ (w.bits - 1)) || decide (2 ^ (w.bits - 1) ≤ k)

/-- Decimal digits of an operand of width w. -/
def Width.digits : Width → Nat
  | .w8 => 2
  | .w16 => 4

/-- Decimal digit `k` of a word. -/
def bcdDigit (v : Word) (k : Nat) : Nat := v.toNat / 16 ^ k % 16

/-- The number a word stands for in decimal mode. -/
def bcdValue (v : Word) : Nat := bcdDigit v 0 + 10 * bcdDigit v 1 + 100 * bcdDigit v 2 + 1000 * bcdDigit v 3

/-- A word of width w whose every digit is decimal. -/
def Width.isBcd (w : Width) (v : Word) : Prop :=
  v.toNat ≤ w.mask.toNat ∧ bcdDigit v 0 ≤ 9 ∧ bcdDigit v 1 ≤ 9 ∧ bcdDigit v 2 ≤ 9 ∧ bcdDigit v 3 ≤ 9

/-! ## The audio side -/

/-- The byte at an audio address that is no I/O register: boot ROM where it is mapped, else RAM (R985). -/
def Apu.ramByte (u : Apu) (a : Word) : Byte :=
  if u.iplOn && decide (0xFFC0 ≤ a.toNat) then iplByte (a.toNat - 0xFFC0) else Cells.read 0 a.toNat u.aram

/-- The byte at an audio address; `none` for the I/O registers, whose reads have effects (R985, R986). -/
def Apu.byte? (u : Apu) (a : Word) : Option Byte := if isIoReg a then none else some (u.ramByte a)

/-- The audio side with a byte of RAM written (R985). -/
def Apu.putRam (u : Apu) (a : Word) (v : Byte) : Apu := { u with aram := Cells.write 0 a.toNat v u.aram }

/-- The audio side with a byte pushed: page 1 is plain RAM (R121, R981). -/
def Apu.pushed (u : Apu) (v : Byte) : Apu := { u.putRam (0x0100 + zext u.sp) v with sp := u.sp - 1 }

/-- The address of the byte an audio pull reads (R121). -/
def Apu.pullAt (u : Apu) : Word := 0x0100 + zext (u.sp + 1)

/-- The code bytes at `n` audio addresses from `pc` on, where none is an I/O register (R650). -/
def Apu.code? (u : Apu) : Nat → Word → Option (List Byte)
  | 0, _ => some []
  | n + 1, a => (u.byte? a).bind fun v => (u.code? n (a + 1)).map (v :: ·)

/-- What an audio operation answers and leaves, run on the machine's audio side. -/
def State.audio {α : Type} (s : State) (x : A α) : α × Apu := (x.run s.cfg).run s.apu

/-- What an audio operation answers and leaves, run on an audio side under the machine's parameters. -/
def State.audioOn {α : Type} (s : State) (u : Apu) (x : A α) : α × Apu := (x.run s.cfg).run u

/-- The machine after an audio instruction that leaves the audio side at `u`: its cost is added to the cycles it started at,
and nothing outside the audio side changes (R650, R980). -/
def State.audioEnded (s : State) (i : Instr) (taken : Bool) (u : Apu) : State :=
  { s with apu := { u with acycles := s.apu.acycles + audioCost s.cfg i taken } }

/-! ## The form memory keeps -/

/-- Every memory of the machine is in canonical form: keys rising and inside the memory, no entry equal to what an unlisted
element reads as. -/
def Memory.wf (s : State) : Bool :=
  Cells.wf 0 0x20000 s.wram && Cells.wf 0 s.cfg.sramSize s.sram && Cells.wf 0 0x10000 s.apu.aram &&
    Cells.wf 0 0x80 s.apu.dspReg && Cells.wf 0 0x8000 s.ppu.vram && Cells.wf 0 0x100 s.ppu.cgram &&
    Cells.wf 0 544 s.ppu.oam && Cells.wf 0 0x80 s.dma && Cells.wf blankRow 224 s.ppu.fb0 && Cells.wf blankRow 224 s.ppu.fb1

/-! ## The invariant -/

/-- What the mode bits force on the main CPU's registers: with X = 1 the index registers' high bytes are 0 (R101); in
emulation mode M and X are 1 and S is in page 1 (R102, R108). -/
structure Cpu.Ok (b : Cpu) : Prop where
  index     : b.flag fX = true → hi b.x = 0 ∧ hi b.y = 0
  emulation : b.e = true → b.flag fM = true ∧ b.flag fX = true ∧ hi b.s = 0x01

/-- What holds of the machine around the main CPU between instructions. -/
structure State.DevInv (s : State) : Prop where
  /-- every memory is in canonical form -/
  memory   : Memory.wf s = true
  /-- the OAM pointer is in range (R143) -/
  oamptr   : s.ppu.oamptr.toNat < 544
  /-- the index buffer has 256 pixels (R153) -/
  line     : s.ppu.line.length = 256
  /-- a listed framebuffer row has 256 pixels (R153) -/
  rows     : ∀ p ∈ s.ppu.fb0 ++ s.ppu.fb1, p.2.length = 256
  /-- the line counter is in range (R182) -/
  vline    : s.sched.vline < 262
  /-- VBlank is exactly lines 224 to 261 (R854) -/
  vblank   : s.io.vblank = decide (224 ≤ s.sched.vline)
  /-- the NMI flag is set only during VBlank (R171, R854) -/
  rdnmi    : s.io.rdnmiFlag = true → s.io.vblank = true
  /-- no source drives the IRQ line (R173) -/
  irq      : s.io.irqLine = false
  /-- the queue is in ascending (timestamp, insertion) order (R181) -/
  queue    : s.sched.queue.Pairwise fun a b => a.before b = true
  /-- insertion numbers are below the next one (R850) -/
  fresh    : ∀ e ∈ s.sched.queue, e.seq < s.sched.seqNext
  /-- exactly one sentinel stays queued, at its timestamp (R181, R857) -/
  sentinel : (s.sched.queue.filter fun e => e.kind = EventKind.sentinel).map (·.ts) = [2 ^ 64 - 1]

/-- A queue of HBLANK at `ts` and the sentinel alone, in the order in which they leave it (R181, R850). -/
def StartQueue (ts : Nat) (q : List Event) : Prop :=
  (q.Pairwise fun a b => a.before b = true) ∧ ∃ n m, q.Perm [⟨.hblank, ts, n⟩, ⟨.sentinel, 2 ^ 64 - 1, m⟩]

/-- The line events queued, and the HBlank bit. -/
def State.lineState (s : State) : List Event × Bool := (s.sched.queue.filter fun e => e.kind.isLine, s.io.hblank)

/-- The invariant of the machine: every step that completes keeps it. -/
structure State.Inv (s : State) : Prop where
  cpu  : s.cpu.Ok
  dev  : s.DevInv
  /-- exactly one of the two line events is queued, and it is EOL exactly during HBlank (R853, R854, R859) -/
  line : ∃ e, s.lineState = ([e], decide (e.kind = .eol))

/-- A safe state: the invariant holds and the core has not stopped. -/
structure State.Safe (s : State) : Prop where
  inv      : s.Inv
  running  : s.fatal = none
  wasReset : s.resetDone = true

end Sys2Proof.Machine
end

