-- ==== Sys2Proof/Certificates/Slice0/Obligations.lean ====
section
/-!
DEFINITION. The statements for the provers, one definition each, in the order of OBLIGATIONS.json.
A docstring says which rules of spec/ a statement formalises.
-/

open Sys2Proof Sys2Proof.Machine

/-! ## Encoding -/

/-- Decoding an encoded well-formed instruction, whatever bytes follow, gives the instruction back and leaves those bytes: on the
main CPU with every M and X its immediate fits, on the audio CPU always (R300 to R316). -/
def Obligations.RoundTrip : Prop :=
  ∀ (i : Instr), i.wf = true → ∀ (m x : Bool) (rest : List Byte),
    (i.isAudio = false → i.fits m x = true → decodeMain m x (encode i ++ rest) = some (i, rest)) ∧
      (i.isAudio = true → decodeAudio (encode i ++ rest) = some (i, rest))

/-- Every opcode byte of either CPU is an instruction, with at most three (main) or two (audio) operand bytes, and encoding the
instruction decoded gives back exactly the bytes it was decoded from (R300, R307, R310, R314). -/
def Obligations.EveryOpcodeDecodes : Prop :=
  ∀ (op b1 b2 b3 : Byte) (rest : List Byte) (m x : Bool),
    (∃ i n, n ≤ 3 ∧ decodeMain m x (op :: b1 :: b2 :: b3 :: rest) = some (i, (b1 :: b2 :: b3 :: rest).drop n) ∧
      i.isAudio = false ∧ i.wf = true ∧ i.fits m x = true ∧ encode i = (op :: b1 :: b2 :: b3 :: rest).take (n + 1)) ∧
    (∃ i n, n ≤ 2 ∧ decodeAudio (op :: b1 :: b2 :: b3 :: rest) = some (i, (b1 :: b2 :: b3 :: rest).drop n) ∧
      i.isAudio = true ∧ i.wf = true ∧ encode i = (op :: b1 :: b2 :: b3 :: rest).take (n + 1))

/-- A few words written out bit by bit from the maps of R305 and R313 decode to the instructions they stand for; the width of an
immediate follows M or X (R303, R304), and the audio operand orders are those of R312. -/
def Obligations.DecodedWords : Prop :=
  decodeMain true true [0b10101001#8, 0x42#8, 0x99#8] = some (.lda (.imm (.b8 0x42)), [0x99]) ∧
  decodeMain false true [0b10101001#8, 0x42#8, 0x99#8] = some (.lda (.imm (.b16 0x9942)), []) ∧
  decodeMain true false [0b10100010#8, 0x00#8, 0x80#8] = some (.ldx (.imm (.b16 0x8000)), []) ∧
  decodeMain false true [0b10100010#8, 0x00#8, 0x80#8] = some (.ldx (.imm (.b8 0x00)), [0x80]) ∧
  decodeMain false false [0b11000010#8, 0x30#8, 0x11#8] = some (.rep 0x30, [0x11]) ∧
  decodeMain true true [0b11110100#8, 0x34#8, 0x12#8] = some (.pea 0x1234, []) ∧
  decodeMain true true [0b10001111#8, 0x56#8, 0x34#8, 0x7E#8] = some (.sta (.long 0x7E3456), []) ∧
  decodeMain true true [0b01010100#8, 0x7E#8, 0x7F#8] = some (.mvn 0x7E 0x7F, []) ∧
  decodeMain true true [0b00100000#8, 0x00#8, 0x90#8] = some (.jsr 0x9000, []) ∧
  decodeMain true true [0b01110001#8, 0x20#8] = some (.adc (.mem (.dpindy 0x20)), []) ∧
  decodeAudio [0b11111010#8, 0x10#8, 0x20#8] = some (.aMovDD 0x10 0x20, []) ∧
  decodeAudio [0b00011000#8, 0x80#8, 0x30#8] = some (.aOr (.dImm 0x80 0x30), []) ∧
  decodeAudio [0b11100010#8, 0x10#8] = some (.aSet1 7 0x10, []) ∧
  decodeAudio [0b11101010#8, 0x10#8, 0x20#8] = some (.aNot1 0x0010 1, []) ∧
  decodeAudio [0b11110001#8] = some (.aTcall 15, [])

/-! ## The machine: reset, a step, time -/

/-- Every step that completes keeps the invariant of the machine: memory in canonical form, the index registers' high bytes 0 while
X is 1, M and X 1 and S in page 1 in emulation mode, VBlank exactly lines 224 to 261, the line counter below 262, the IRQ line 0, the
queue ordered, exactly one sentinel in it and that at timestamp 2^64-1, and exactly one of the two line events in it, EOL exactly
during HBlank (R101, R102, R108, R143, R153, R171, R173, R181, R182, R850, R859). -/
def Obligations.InvariantKept : Prop := ∀ (s t : State), s.Inv → step s = .next t → t.Inv

/-- The invariant holds right after reset, with the cartridge and the memory contents the model chose for it (logs 1 and 3). -/
def Obligations.InvariantAtReset : Prop := State.reset.Inv

/-- What `reset()` assigns, and what it leaves alone under each reset scope; the queue that a full reset rebuilds, and that of power-on,
is in order whatever the parameters (R181, R850, R862, R1050, R1053). What the model chose is left open: its own fields `draws` and
`resetDone`, the numbers of the rebuilt events, and the line buffer under the full scope (logs 8, 12, 19 and 22). -/
def Obligations.ResetAssignments : Prop :=
  ∀ (s : State),
    let t := resetMachine s
    (∃ v, t.cpu =
      { c := 0, x := 0, y := 0, s := 0x01FF, d := 0, pc := v, pbr := 0, dbr := 0, p := 0x34, e := true
        cycles := 0, pending := 0, waiting := false, stopped := false } ∧
      ∀ l h, s.byte? 0x00FFFC = some l → s.byte? 0x00FFFD = some h → v = mkWord h l) ∧
    (∃ n, t.apu =
      { a := 0, x := 0, y := 0, sp := 0, pc := 0xFFC0, psw := 0, acycles := 0, abase := s.sched.master, halted := false
        aram := s.cfg.init.aram, iplOn := true
        timer0 := ⟨false, 0, 0, 0, 0⟩, timer1 := ⟨false, 0, 0, 0, 0⟩, timer2 := ⟨false, 0, 0, 0, 0⟩
        pin := ⟨0, 0, 0, 0⟩, pout := ⟨0, 0, 0, 0⟩
        dspAddr := 0, dspReg := [], aux0 := 0, aux1 := 0, test := 0, draws := n }) ∧
    (s.cfg.resetScope = .asBuilt → t = { s with cpu := t.cpu, apu := t.apu, resetDone := t.resetDone }) ∧
    (s.cfg.resetScope = .full → ∃ q line, StartQueue (s.sched.master + s.cfg.hblankMaster) q ∧
      t =
        { s with
          cpu := t.cpu, apu := t.apu, resetDone := t.resetDone
          ppu := { Ppu.reset s.cfg.init with line := line }, dma := s.cfg.init.dma, hdmaen := 0, math := s.cfg.init.math, io := IoRegs.reset
          sched :=
            { s.sched with
              queue := q
              vline := 0, frameComplete := false } }) ∧
    StartQueue s.cfg.hblankMaster (powerOn s.cfg).sched.queue

/-- Where the bytes at PBR:PC are mapped and decode to an instruction, a step of a running CPU is `exec` of that instruction with PC
past its bytes, then the conversion of its cycles to master ticks and the due events; where no event is due then, nothing else
happens (R400, R401, R851, R852, R855). -/
def Obligations.StepRunsDecodedInstruction : Prop :=
  ∀ (s : State) (i : Instr) (op : Byte) (bs : List Byte),
    s.fatal = none → s.resetDone = true → s.cpu.stopped = false → s.cpu.waiting = false →
    s.code? s.cpu.pbr (bs.length + 1) s.cpu.pc = some (op :: bs) → op ∉ s.cfg.unimplOps →
    decodeMain (s.cpu.flag fM) (s.cpu.flag fX) (op :: bs) = some (i, []) →
    (∀ u, exec i (s.onCpu fun b => { b with pc := b.pc + BitVec.ofNat 16 (bs.length + 1) }) = .next u →
      step s = settle u ∧
      ((∀ e ∈ u.sched.queue, u.sched.master + u.cpu.pending * u.cfg.masterPerCycle < e.ts) →
        step s = .next { u with
          cpu := { u.cpu with pending := 0 }
          sched := { u.sched with master := u.sched.master + u.cpu.pending * u.cfg.masterPerCycle } })) ∧
    (∀ f, exec i (s.onCpu fun b => { b with pc := b.pc + BitVec.ofNat 16 (bs.length + 1) }) = .fault f → step s = .fault f)

/-- A fatal state is final: a step or a frame of it answers the same state; the state a faulting step leaves is such a state; a machine
that was never reset refuses to step; and whatever a load did, `reset()` must come before the next step (R830, R1062, R1065, R1066;
that the fault carries the state is log 9). -/
def Obligations.FatalStateIsFinal : Prop :=
  (∀ (s : State) (f : Fatal), s.fatal = some f → step s = .fault (.fatal f s) ∧ hostStep s = .fatal f s ∧ runFrame s = .fatal f s) ∧
  (∀ (s t : State) (f : Fatal), step s = .fault (.fatal f t) → t.fatal = some f ∧ step t = .fault (.fatal f t)) ∧
  (∀ (s : State), s.fatal = none → s.resetDone = false → step s = .refused .stepBeforeReset) ∧
  (∀ (s : State) (k : Cartridge), (loadRom k s).resetDone = false)

/-- An opcode in `P_UNIMPL_OPS` is fatal: no operand byte is fetched and no register or cycle count of the CPU changes; nothing at all does
where the opcode comes from memory, and where it comes from an I/O register the effect of that one read stands (R401, R635, R830). -/
def Obligations.UnimplementedOpcode : Prop :=
  ∀ (s : State) (op : Byte), s.fatal = none → s.resetDone = true → s.cpu.stopped = false → s.cpu.waiting = false →
    op ∈ s.cfg.unimplOps →
    (s.byte? (mkAddr s.cpu.pbr s.cpu.pc) = some op →
      step s = .fault (.fatal (.unimplementedOpcode s.cpu.pbr s.cpu.pc op)
        { s with fatal := some (.unimplementedOpcode s.cpu.pbr s.cpu.pc op) })) ∧
    (∀ t, (read8 (mkAddr s.cpu.pbr s.cpu.pc)).run s = .ok op t → t.cpu = s.cpu ∧
      step s = .fault (.fatal (.unimplementedOpcode s.cpu.pbr s.cpu.pc op)
        { t with fatal := some (.unimplementedOpcode s.cpu.pbr s.cpu.pc op) }))

/-- A stopped CPU keeps every register through every step; a waiting CPU does too until an interrupt entry clears `waiting`; and such
a step moves the master clock at least to the next event; the host gets `Halted` for a stopped CPU and `Ok` for any other (R18, R633,
R634, R833, R851; for a stopped CPU log 10). -/
def Obligations.IdleCpu : Prop :=
  ∀ (s t : State), step s = .next t →
    (s.cpu.stopped = true → t.cpu = s.cpu ∧ hostStep s = .halted t) ∧
    (t.cpu.stopped = true → hostStep s = .halted t) ∧
    (t.cpu.stopped = false → hostStep s = .ok t) ∧
    (s.cpu.waiting = true → t.cpu = s.cpu ∨ t.cpu.waiting = false) ∧
    (s.cpu.stopped = true ∨ s.cpu.waiting = true →
      ∀ e, s.sched.queue.head? = some e → s.sched.master ≤ t.sched.master ∧ e.ts ≤ t.sched.master)

/-- After a step from a state of the invariant no queued event is due (R851, R852). -/
def Obligations.NoDueEventIsLeft : Prop :=
  ∀ (s t : State), s.Inv → step s = .next t → ∀ e ∈ t.sched.queue, t.sched.master < e.ts

/-- The master clock only increases; a step of a running CPU advances it by at least two cycles' ticks, unless the cost parameter lists less;
no step changes the parameters or the cartridge; and a frame ends: wherever a cycle takes time, `runFrame()` answers what its unbounded
loop answers, which is one thing only and, if not fatal, has the frame complete (R190, R855, R858; the bound is log 21). -/
def Obligations.TimeOnlyIncreases : Prop :=
  (∀ (s t : State), step s = .next t →
    s.sched.master ≤ t.sched.master ∧
    ((∀ e ∈ s.cfg.cpuCosts, 2 ≤ e.2) → s.cpu.stopped = false → s.cpu.waiting = false →
      s.sched.master + 2 * s.cfg.masterPerCycle ≤ t.sched.master) ∧
    t.cfg = s.cfg ∧ t.fatal = none ∧ t.resetDone = true) ∧
  (∀ (s : State), s.Inv → 1 ≤ s.cfg.masterPerCycle → (∀ e ∈ s.cfg.cpuCosts, 1 ≤ e.2) → FrameReturns s (runFrame s)) ∧
  (∀ (s : State) (o o' : Report), FrameReturns s o → FrameReturns s o' → o = o') ∧
  (∀ (s t : State), FrameReturns s (.ok t) ∨ FrameReturns s (.halted t) → t.sched.frameComplete = true)

/-! ## Interrupts -/

/-- Interrupt entry where the frame can be pushed and the vector is mapped: native mode pushes PBR, the return address and P; emulation
mode the return address and `EmuP`; then I is 1, D is 0, PBR is 0, PC is the word at the kind's vector and `waiting` is 0.
BRK and COP do exactly this with the address after the signature byte, by default for 7 cycles or 8 in native mode (R602, R603, R805 to
R808). -/
def Obligations.InterruptEntry : Prop :=
  ∀ (s u : State) (k : IntKind) (ret v : Word), s.cpu.Ok →
    (s.cpu.e = false → ((s.push8? s.cpu.pbr).bind (State.push16? ret)).bind (State.push8? s.cpu.p) = some u) →
    (s.cpu.e = true → (s.push16? ret).bind
      (State.push8? ((s.cpu.p &&& 0xCF) ||| 0x20 ||| (if k = .brk then 0x10 else 0x00))) = some u) →
    u.word? (.bank 0 (match k with
      | .cop => if s.cpu.e then 0xFFF4 else 0xFFE4
      | .brk => if s.cpu.e then 0xFFFE else 0xFFE6
      | .abort => if s.cpu.e then 0xFFF8 else 0xFFE8
      | .nmi => if s.cpu.e then 0xFFFA else 0xFFEA
      | .irq => if s.cpu.e then 0xFFFE else 0xFFEE)) .w16 = some v →
    (interrupt k ret).run s =
      .ok () (u.onCpu fun b => { b with p := (s.cpu.p ||| 0x04) &&& 0xF7, pbr := 0, pc := v, waiting := false }) ∧
    (k = .brk → ret = s.cpu.pc → ∀ sig, exec (.brk sig) s =
      .next (u.ended (.brk sig) s.cpu Facts.plain
        { u.cpu with p := (s.cpu.p ||| 0x04) &&& 0xF7, pbr := 0, pc := v, waiting := false })) ∧
    (k = .cop → ret = s.cpu.pc → ∀ sig, exec (.cop sig) s =
      .next (u.ended (.cop sig) s.cpu Facts.plain
        { u.cpu with p := (s.cpu.p ||| 0x04) &&& 0xF7, pbr := 0, pc := v, waiting := false })) ∧
    (s.cfg.cpuCosts = [] → ∀ sig, ∀ i ∈ [Instr.brk sig, Instr.cop sig],
      instrCost s.cfg i s.cpu Facts.plain = if s.cpu.e then 7 else 8)

/-- `fireNMI()`: nothing at all when stopped; else the NMI entry with PC, then 7 cycles, or 8 in native mode, kept in `pending`, and the
CPU no longer waits (R804, R808). -/
def Obligations.NmiEntry : Prop :=
  ∀ (s : State),
    (s.cpu.stopped = true → fireNmi.run s = .ok () s) ∧
    (s.cpu.stopped = false → ∀ u, (interrupt .nmi s.cpu.pc).run s = .ok () u →
      u.cpu.waiting = false ∧
      fireNmi.run s = .ok () (u.onCpu fun b =>
        { b with cycles := b.cycles + (if s.cpu.e then 7 else 8), pending := b.pending + (if s.cpu.e then 7 else 8) }))

/-- The two line events (R853, R854, R900): HBLANK renders a visible line, sets the HBlank bit and schedules EOL; EOL counts the line,
enters VBlank and may take the NMI at line 224, and wraps at line 262. A line rendered fills its row of the buffer being written with the
palette's colours and no other row: each pixel is that of the first rank, front first, among the enabled layers that has one, found through
the layer's scroll, tile map, tile data and palette group (R897 to R910). -/
def Obligations.LineEvents : Prop :=
  ∀ (s : State) (ts : Nat),
    let u := s.ppu
    let y := s.sched.vline
    let order : List (Nat × Option Bool) :=
      if u.mode = 0 then [(0, none), (1, none), (2, none)]
      else if u.mode = 3 then [(0, none)]
      else if u.bg3prio then [(2, some true), (0, some true), (1, some true), (0, some false), (1, some false), (2, some false)]
      else [(0, some true), (1, some true), (0, some false), (1, some false), (2, some true), (2, some false)]
    let drawn := order.filter fun r => u.tm.getLsbD r.1
    let shown : Nat → Nat × Option Bool → Nat := fun x r =>
      let b := u.bg.get r.1
      let px := (x + b.hofs.toNat) % 1024
      let py := (y + b.vofs.toNat) % 1024
      let quadrant := match b.scsize with
        | 0#2 => 0
        | 1#2 => px / 256 % 2 * 0x400
        | 2#2 => py / 256 % 2 * 0x400
        | _ => px / 256 % 2 * 0x400 + py / 256 % 2 * 0x800
      let e := Cells.read 0 ((b.scbase.toNat * 0x400 + quadrant + py / 8 % 32 * 32 + px / 8 % 32) % 0x8000) u.vram
      let depth := if u.mode = 0 then 2 else if u.mode = 3 then 8 else if r.1 = 2 then 2 else 4
      let row := if e.getLsbD 15 then 7 - py % 8 else py % 8
      let column := if e.getLsbD 14 then 7 - px % 8 else px % 8
      let color := ((List.range depth).map fun k =>
        if (Cells.read 0 ((b.chbase.toNat * 0x1000 + e.toNat % 1024 * 4 * depth + row + 8 * (k / 2)) % 0x8000) u.vram).getLsbD
          (8 * (k % 2) + 7 - column) then 2 ^ k else 0).sum
      let group := e.toNat / 1024 % 8
      if r.2 = some (!e.getLsbD 13) ∨ color = 0 then 0
      else if u.mode = 0 then r.1 * 32 + group * 4 + color
      else if u.mode = 3 then color
      else if r.1 = 2 then group * 4 + color
      else group * 16 + color
    (224 ≤ s.sched.vline → (handleHblank ts).run s =
      .ok () ((s.onIo fun r => { r with hblank := true }).onSched
        (·.push .eol (ts + (s.cfg.lineMaster - s.cfg.hblankMaster))))) ∧
    (s.sched.vline < 224 → s.ppu.mode ∈ [0#3, 1#3, 3#3] → ∃ t pixels fb, (renderLine s.sched.vline).run s = .ok () t ∧
      (handleHblank ts).run s =
        .ok () ((t.onIo fun r => { r with hblank := true }).onSched
          (·.push .eol (ts + (s.cfg.lineMaster - s.cfg.hblankMaster)))) ∧
      t = { s with
        ppu := { u with line := pixels, fb0 := if u.wbuf then u.fb0 else fb, fb1 := if u.wbuf then fb else u.fb1 }
        marks := { s.marks with
          obj := s.marks.obj || u.tm.getLsbD 4
          tileSize := s.marks.tileSize || drawn.any fun r => (u.bg.get r.1).tilesize
          mode0Bg4 := s.marks.mode0Bg4 || (decide (u.mode = 0) && u.tm.getLsbD 3)
          mode3Bg2 := s.marks.mode3Bg2 || (decide (u.mode = 3) && u.tm.getLsbD 1) } } ∧
      (Memory.wf s = true → ∀ k, Cells.read blankRow k fb =
        if k = y then pixels.map (pcache u) else Cells.read blankRow k (if u.wbuf then u.fb1 else u.fb0)) ∧
      pixels.length = 256 ∧
      ∀ x, x < 256 → (pixels[x]?).map (·.toNat) = some (((drawn.map (shown x)).find? (· ≠ 0)).getD 0)) ∧
    (s.sched.vline < 224 → s.ppu.mode ∉ [0#3, 1#3, 3#3] →
      (handleHblank ts).run s = .error (.fatal (.bgModeUnimplemented s.ppu.mode s.sched.vline)) s) ∧
    (s.sched.vline + 1 ≠ 224 → s.sched.vline + 1 ≠ 262 → (handleEol ts).run s =
      .ok () ((s.onIo fun r => { r with hblank := false }).onSched fun q =>
        { q with vline := q.vline + 1 }.push .hblank (ts + s.cfg.hblankMaster))) ∧
    (s.sched.vline + 1 = 224 → s.io.nmiEn = false → (handleEol ts).run s =
      .ok () ((s.onIo fun r => { r with hblank := false, vblank := true, rdnmiFlag := true }).onSched fun q =>
        { q with vline := 224, frameComplete := true }.push .hblank (ts + s.cfg.hblankMaster))) ∧
    (s.sched.vline + 1 = 224 → s.io.nmiEn = true → ∀ t,
      fireNmi.run ((s.onIo fun r => { r with hblank := false, vblank := true, rdnmiFlag := true }).onSched fun q =>
        { q with vline := 224, frameComplete := true }) = .ok () t →
      (handleEol ts).run s = .ok () (t.onSched (·.push .hblank (ts + s.cfg.hblankMaster)))) ∧
    (s.sched.vline + 1 = 262 → (handleEol ts).run s =
      .ok () ((s.onIo fun r => { r with hblank := false, vblank := false, rdnmiFlag := false }).onSched fun q =>
        { q with vline := 0 }.push .hblank (ts + s.cfg.hblankMaster)))

/-- RTI pulls P, then PC, and in native mode PBR; in emulation mode M and X stay 1, and where X is 1 the index registers' high bytes
are cleared (R601, R620). -/
def Obligations.ReturnFromInterrupt : Prop :=
  ∀ (s s1 s2 : State) (p : Byte) (t : Word), s.pull8? = some (p, s1) →
    (s1.onCpu (·.withP p)).pull16? = some (t, s2) →
    (s.cpu.e = true → exec .rti s = .next (s2.ended .rti s.cpu Facts.plain { s2.cpu with pc := t })) ∧
    (s.cpu.e = false → ∀ k s3, s2.pull8? = some (k, s3) →
      exec .rti s = .next (s3.ended .rti s.cpu Facts.plain { s3.cpu with pc := t, pbr := k }))

/-- RTI undoes an interrupt entry: with the stack in work RAM, the RTI after an entry restores P, S and every other register, resumes
at the return address and in native mode restores PBR, which emulation mode leaves 0 (R601, R805, R807, R809). -/
def Obligations.RtiInvertsEntry : Prop :=
  ∀ (s u : State) (k : IntKind) (ret : Word), s.cpu.Ok → Memory.wf s = true →
    (s.cpu.e = false → 3 ≤ s.cpu.s.toNat ∧ s.cpu.s.toNat < 0x2000) →
    (interrupt k ret).run s = .ok () u →
    ∃ t, exec .rti u = .next t ∧
      t.cpu = Cpu.charge (instrCost u.cfg .rti u.cpu Facts.plain)
        { s.cpu with pc := ret, pbr := if s.cpu.e then 0 else s.cpu.pbr, waiting := false } ∧
      t = { u with cpu := t.cpu }

/-! ## The main CPU's bus -/

/-- The effective address of every memory operand of the main CPU, with the banks and wraps of the table of R403, wherever the pointer
it goes through, if any, is mapped; resolving it changes nothing (R406 to R420). -/
def Obligations.EffectiveAddresses : Prop :=
  ∀ (s : State) (o : Byte) (a p : Word) (q : Addr),
    let b := s.cpu
    let direct : Word → Loc := fun k =>
      if b.e = true ∧ lo b.d = 0 then .page (hi b.d) (lo k) else .bank 0 (b.d + k)
    let data : Word → Addr := fun v => mkAddr b.dbr v
    (resolve (.abs a)).run s = .ok (.lin (data a), false) s ∧
    (resolve (.absx a)).run s = .ok (.lin (data a + b.x.setWidth 24), decide (hi a ≠ hi (a + b.x))) s ∧
    (resolve (.absy a)).run s = .ok (.lin (data a + b.y.setWidth 24), decide (hi a ≠ hi (a + b.y))) s ∧
    (resolve (.long q)).run s = .ok (.lin q, false) s ∧
    (resolve (.longx q)).run s = .ok (.lin (q + b.x.setWidth 24), false) s ∧
    (resolve (.dp o)).run s = .ok (direct (zext o), false) s ∧
    (resolve (.dpx o)).run s = .ok (direct (zext o + b.x), false) s ∧
    (resolve (.dpy o)).run s = .ok (direct (zext o + b.y), false) s ∧
    (resolve (.sr o)).run s = .ok (.bank 0 (b.s + zext o), false) s ∧
    (s.word? (direct (zext o)) .w16 = some p →
      (resolve (.dpind o)).run s = .ok (.lin (data p), false) s ∧
      (resolve (.dpindy o)).run s = .ok (.lin (data p + b.y.setWidth 24), decide (hi p ≠ hi (p + b.y))) s) ∧
    (s.word? (direct (zext o + b.x)) .w16 = some p → (resolve (.dpxind o)).run s = .ok (.lin (data p), false) s) ∧
    (s.far? (.bank 0 (b.d + zext o)) = some q →
      (resolve (.dpindl o)).run s = .ok (.lin q, false) s ∧
      (resolve (.dpindly o)).run s = .ok (.lin (q + b.y.setWidth 24), false) s) ∧
    (s.word? (.bank 0 (b.s + zext o)) .w16 = some p →
      (resolve (.sriy o)).run s = .ok (.lin (data p + b.y.setWidth 24), false) s)

/-- A store to mapped writable bytes completes, the bytes read back low byte first, every byte of another cell reads as before, and
nothing but the two RAMs changes (R200, R201, R211, R403). -/
def Obligations.MappedStores : Prop :=
  ∀ (s : State) (l : Loc) (w : Width) (v : Word), Memory.wf s = true → s.writable l w = true →
    ∃ t, (memWrite l w v).run s = .ok () t ∧ Stored s t l w v ∧ t.cpu = s.cpu ∧ Memory.wf t = true

/-- The page tables of LoROM and HiROM cartridges, address by address (R221, R222, R223); every other address is unmapped, and what is
mapped but for ROM is writable. -/
def Obligations.AddressMap : Prop :=
  ∀ (cfg : Config) (bank : Byte) (off : Word),
    let b := bank.toNat
    let o := off.toNat
    let low := b ≤ 0x3F ∨ (0x80 ≤ b ∧ b ≤ 0xBF)
    let at? := rpage cfg (mkAddr bank off)
    (low → o < 0x2000 → at? = some (.wram, o)) ∧
    (b = 0x7E ∨ b = 0x7F → at? = some (.wram, (b - 0x7E) * 0x10000 + o)) ∧
    (low → 0x2000 ≤ o → o < 0x6000 → at? = none) ∧
    (cfg.mapper = .loRom →
      (b ≤ 0x7D ∨ 0x80 ≤ b → 0x8000 ≤ o → at? = some (.rom, (((b &&& 0x7F) <<< 15) ||| (o &&& 0x7FFF)) % cfg.romSize)) ∧
      ((0x70 ≤ b ∧ b ≤ 0x7D) ∨ 0xF0 ≤ b → o < 0x8000 →
        at? = if cfg.sramSize > 0 then some (.sram, (((b &&& 0x0F) <<< 15) ||| o) % cfg.sramSize) else none) ∧
      ((0x40 ≤ b ∧ b ≤ 0x6F) ∨ (0xC0 ≤ b ∧ b ≤ 0xEF) → o < 0x8000 → at? = none) ∧
      (low → 0x6000 ≤ o → o < 0x8000 → at? = none)) ∧
    (cfg.mapper = .hiRom →
      ((0x40 ≤ b ∧ b ≤ 0x7D) ∨ 0xC0 ≤ b → at? = some (.rom, (((b &&& 0x3F) <<< 16) ||| o) % cfg.romSize)) ∧
      (low → 0x8000 ≤ o → at? = some (.rom, (((b &&& 0x3F) <<< 16) ||| o) % cfg.romSize)) ∧
      (low → 0x6000 ≤ o → o < 0x8000 →
        at? = if cfg.sramSize > 0 ∧ (0x20 ≤ b % 0x80) then some (.sram, (((b &&& 0x1F) <<< 13) ||| (o - 0x6000)) % cfg.sramSize)
          else none)) ∧
    wpage cfg (mkAddr bank off) = at?.filter fun p => decide (p.1 ≠ .rom)

/-- What the bus refuses: an unmapped address outside the I/O window, every offset of the window that no register has, the PPU's read
registers 0x2138 to 0x213F, and a write to ROM; nothing changes then (R225, R230, R231, R234 to R237, R896). -/
def Obligations.AccessFaults : Prop :=
  ∀ (s : State) (bank : Byte) (off : Word) (v : Byte),
    let a := mkAddr bank off
    let o := off.toNat
    let window := (bank.toNat ≤ 0x3F ∨ (0x80 ≤ bank.toNat ∧ bank.toNat ≤ 0xBF)) ∧ 0x2000 ≤ o ∧ o ≤ 0x5FFF
    (rpage s.cfg a = none → ¬window →
      (read8 a).run s = .error (.fatal (.unmappedRead a)) s ∧ (write8 a v).run s = .error (.fatal (.unmappedWrite a)) s) ∧
    (window → (o < 0x2100 ∨ (0x2184 ≤ o ∧ o < 0x4016) ∨ (0x4018 ≤ o ∧ o < 0x4200) ∨ o = 0x420E ∨ o = 0x420F ∨
        (0x4220 ≤ o ∧ o < 0x4300) ∨ 0x4380 ≤ o ∨ (0x4300 ≤ o ∧ 12 ≤ o % 16)) →
      (read8 a).run s = .error (.fatal (.unmappedRead a)) s ∧ (write8 a v).run s = .error (.fatal (.unmappedWrite a)) s) ∧
    (window → 0x2138 ≤ o → o ≤ 0x213F → (read8 a).run s = .error (.fatal (.unmappedRead a)) s ∧ (write8 a v).run s = .ok () s) ∧
    (∀ i, rpage s.cfg a = some (.rom, i) → (write8 a v).run s = .error (.fatal (.unmappedWrite a)) s)

/-- No bus access of the main CPU that completes, whatever DMA transfer or audio catch-up it starts, changes a register of the main CPU,
the cartridge, the cycle count or the scheduler's line state, and the master clock does not go back (R213, R280, R830, R946). -/
def Obligations.BusKeepsRegisters : Prop :=
  ∀ (s t : State) (a : Addr) (v : Byte), (read8 a).run s = .ok v t ∨ (write8 a v).run s = .ok () t →
    t.cpu = s.cpu ∧ t.cfg = s.cfg ∧ t.fatal = s.fatal ∧ t.resetDone = s.resetDone ∧ t.sched.vline = s.sched.vline ∧
      t.sched.frameComplete = s.sched.frameComplete ∧ s.sched.master ≤ t.sched.master

/-- The math engine's registers: product, quotient and remainder, and a division by zero, readable at once (R960 to R964). -/
def Obligations.MathEngine : Prop :=
  ∀ (s : State) (bank v : Byte), (bank.toNat ≤ 0x3F ∨ (0x80 ≤ bank.toNat ∧ bank.toNat ≤ 0xBF)) →
    (write8 (mkAddr bank 0x4202) v).run s = .ok () (s.onMath fun u => { u with wrmpya := v }) ∧
    (∃ r q : Word, (write8 (mkAddr bank 0x4203) v).run s =
        .ok () (s.onMath fun u => { u with wrmpyb := v, rdmpy := r, rddiv := q }) ∧
      r.toNat = s.math.wrmpya.toNat * v.toNat ∧ q.toNat = v.toNat) ∧
    (write8 (mkAddr bank 0x4204) v).run s = .ok () (s.onMath fun u => { u with wrdiv := mkWord (hi s.math.wrdiv) v }) ∧
    (write8 (mkAddr bank 0x4205) v).run s = .ok () (s.onMath fun u => { u with wrdiv := mkWord v (lo s.math.wrdiv) }) ∧
    (∃ r q : Word, (write8 (mkAddr bank 0x4206) v).run s =
        .ok () (s.onMath fun u => { u with wrdivb := v, rdmpy := r, rddiv := q }) ∧
      (v = 0 → q = 0xFFFF ∧ r = s.math.wrdiv) ∧
      (v ≠ 0 → r.toNat < v.toNat ∧ q.toNat * v.toNat + r.toNat = s.math.wrdiv.toNat)) ∧
    (read8 (mkAddr bank 0x4214)).run s = .ok (lo s.math.rddiv) s ∧ (read8 (mkAddr bank 0x4215)).run s = .ok (hi s.math.rddiv) s ∧
    (read8 (mkAddr bank 0x4216)).run s = .ok (lo s.math.rdmpy) s ∧ (read8 (mkAddr bank 0x4217)).run s = .ok (hi s.math.rdmpy) s

/-- The interrupt controller's registers: RDNMI shows and clears its flag, TIMEUP's flag is always 0, HVBJOY shows VBlank and HBlank, and
an enabling write of NMITIMEN while the flag is set queues an immediate NMI; undriven bits are free (R811 to R815). -/
def Obligations.InterruptRegisters : Prop :=
  ∀ (s : State) (bank v : Byte), (bank.toNat ≤ 0x3F ∨ (0x80 ≤ bank.toNat ∧ bank.toNat ≤ 0xBF)) →
    (∃ r t, (read8 (mkAddr bank 0x4210)).run s = .ok r t ∧
      t = { s with draws := t.draws, io := { s.io with rdnmiFlag := false } } ∧
      r.getLsbD 7 = s.io.rdnmiFlag ∧ r &&& 0x0F = 0x02) ∧
    (write8 (mkAddr bank 0x4210) v).run s = .ok () s ∧
    (∃ r t, (read8 (mkAddr bank 0x4211)).run s = .ok r t ∧ t = { s with draws := t.draws } ∧ r.getLsbD 7 = false) ∧
    (∃ r t, (read8 (mkAddr bank 0x4212)).run s = .ok r t ∧ t = { s with draws := t.draws } ∧
      r.getLsbD 7 = s.io.vblank ∧ r.getLsbD 6 = s.io.hblank ∧ r.getLsbD 0 = false) ∧
    (∃ t, (write8 (mkAddr bank 0x4200) v).run s = .ok () t ∧
      t.io = { s.io with
        nmiEn := v.getLsbD 7, virqEn := v.getLsbD 5, hirqEn := v.getLsbD 4, autojoy := v.getLsbD 0 } ∧
      t.marks = { s.marks with hvIrq := s.marks.hvIrq || v.getLsbD 5 || v.getLsbD 4 } ∧
      t.sched = (if s.io.nmiEn = false ∧ v.getLsbD 7 = true ∧ s.io.rdnmiFlag = true then
        s.sched.push .assertNmi s.sched.master else s.sched) ∧
      t = { s with io := t.io, marks := t.marks, sched := t.sched })

/-- The VRAM, palette and OAM ports: an address is set, a byte goes to its half of a word or to its place, and the address advances, for
VRAM only on the half VMAIN names; OAM's word address is 9 bits, and above 0x100 it names the 32-byte high table over and over; two palette
writes make one colour, whose cache entry follows at once (R881, R882, R889 to R894, R910). -/
def Obligations.PpuMemoryPorts : Prop :=
  ∀ (s : State) (bank v : Byte), (bank.toNat ≤ 0x3F ∨ (0x80 ≤ bank.toNat ∧ bank.toNat ≤ 0xBF)) → Memory.wf s = true →
    s.ppu.oamptr.toNat < 544 →
    let put := fun (off : Word) => (write8 (mkAddr bank off) v).run s
    (∃ t, put 0x2115 = .ok () t ∧ t = { s with ppu := t.ppu, marks := t.marks } ∧
      t.ppu = { s.ppu with vincHigh := v.getLsbD 7, vremap := v.extractLsb' 2 2, vincStep := v.extractLsb' 0 2 } ∧
      t.marks = { s.marks with vramRemap := s.marks.vramRemap || decide (v.extractLsb' 2 2 ≠ 0) }) ∧
    (∃ t, put 0x2116 = .ok () t ∧ t = { s with ppu := { s.ppu with vaddr := t.ppu.vaddr } } ∧
      t.ppu.vaddr.toNat = s.ppu.vaddr.toNat / 256 * 256 + v.toNat) ∧
    (∃ t, put 0x2117 = .ok () t ∧ t = { s with ppu := { s.ppu with vaddr := t.ppu.vaddr } } ∧
      t.ppu.vaddr.toNat = v.toNat % 128 * 256 + s.ppu.vaddr.toNat % 256) ∧
    (∃ t, put 0x2118 = .ok () t ∧ t = { s with ppu := { s.ppu with vaddr := t.ppu.vaddr, vram := t.ppu.vram } } ∧
      (∀ k, Cells.read 0 k t.ppu.vram = if k = s.ppu.vaddr.toNat then mkWord (hi (Cells.read 0 k s.ppu.vram)) v
        else Cells.read 0 k s.ppu.vram) ∧
      t.ppu.vaddr = if s.ppu.vincHigh then s.ppu.vaddr
        else s.ppu.vaddr + (match s.ppu.vincStep with | 0#2 => 1 | 1#2 => 32 | _ => 128)) ∧
    (∃ t, put 0x2119 = .ok () t ∧ t = { s with ppu := { s.ppu with vaddr := t.ppu.vaddr, vram := t.ppu.vram } } ∧
      (∀ k, Cells.read 0 k t.ppu.vram = if k = s.ppu.vaddr.toNat then mkWord v (lo (Cells.read 0 k s.ppu.vram))
        else Cells.read 0 k s.ppu.vram) ∧
      t.ppu.vaddr = if s.ppu.vincHigh then s.ppu.vaddr + (match s.ppu.vincStep with | 0#2 => 1 | 1#2 => 32 | _ => 128)
        else s.ppu.vaddr) ∧
    put 0x2121 = .ok () { s with ppu := { s.ppu with cgaddr := v, cglatchFull := false } } ∧
    (s.ppu.cglatchFull = false → put 0x2122 = .ok () { s with ppu := { s.ppu with cglow := v, cglatchFull := true } }) ∧
    (s.ppu.cglatchFull = true → ∃ t, put 0x2122 = .ok () t ∧
      t = { s with ppu := { s.ppu with cgram := t.ppu.cgram, cgaddr := s.ppu.cgaddr + 1, cglatchFull := false } } ∧
      (∀ k, k ≠ s.ppu.cgaddr.toNat → Cells.read 0 k t.ppu.cgram = Cells.read 0 k s.ppu.cgram) ∧
      (Cells.read 0 s.ppu.cgaddr.toNat t.ppu.cgram).toNat = v.toNat % 128 * 256 + s.ppu.cglow.toNat ∧
      pcache t.ppu s.ppu.cgaddr = rgba (Cells.read 0 s.ppu.cgaddr.toNat t.ppu.cgram)) ∧
    (∃ a p, put 0x2102 = .ok () { s with ppu := { s.ppu with oamaddr := a, oamptr := p } } ∧
      a.toNat = s.ppu.oamaddr.toNat / 256 * 256 + v.toNat ∧
      p.toNat = if a.toNat < 256 then 2 * a.toNat else 512 + 2 * a.toNat % 32) ∧
    (∃ a p, put 0x2103 = .ok () { s with ppu := { s.ppu with oamaddr := a, oamprio := v.getLsbD 7, oamptr := p } } ∧
      a.toNat = v.toNat % 2 * 256 + s.ppu.oamaddr.toNat % 256 ∧
      p.toNat = if a.toNat < 256 then 2 * a.toNat else 512 + 2 * a.toNat % 32) ∧
    (∃ t, put 0x2104 = .ok () t ∧ t = { s with ppu := { s.ppu with oam := t.ppu.oam, oamptr := t.ppu.oamptr } } ∧
      (∀ k, Cells.read 0 k t.ppu.oam = if k = s.ppu.oamptr.toNat then v else Cells.read 0 k s.ppu.oam) ∧
      t.ppu.oamptr.toNat = if s.ppu.oamptr.toNat = 543 then 0 else s.ppu.oamptr.toNat + 1) ∧
    (∀ c : BitVec 15, ((rgba c).r.toNat = c.toNat % 32 * 8 + c.toNat % 32 / 4) ∧
      ((rgba c).g.toNat = c.toNat / 32 % 32 * 8 + c.toNat / 32 % 32 / 4) ∧
      ((rgba c).b.toNat = c.toNat / 1024 * 8 + c.toNat / 1024 / 4) ∧ (rgba c).a = 0xFF)

/-- The ports with a write latch and the plain registers: the scroll registers share one latch, the six 16-bit Mode-7 registers another, and
M7SEL and the other stored registers use neither; mode, screen bases, character bases and layer enables are fields of the byte written;
nothing else changes. The Mode-7 product is the signed product of M7A and the last byte written to M7B, read without effect
(R880, R883 to R888, R895, R965 to R968). -/
def Obligations.PpuLatchPorts : Prop :=
  ∀ (s : State) (bank v : Byte), (bank.toNat ≤ 0x3F ∨ (0x80 ≤ bank.toNat ∧ bank.toNat ≤ 0xBF)) →
    let put := fun (off : Word) => (write8 (mkAddr bank off) v).run s
    (∀ n, n < 4 →
      (∃ h, put (0x210D + 2 * BitVec.ofNat 16 n) =
          .ok () { s with ppu := { s.ppu with bg := s.ppu.bg.on n (fun b => { b with hofs := h }), bgofsLatch := v } } ∧
        h.toNat = v.toNat * 256 + s.ppu.bgofsLatch.toNat / 8 * 8 + (s.ppu.bg.get n).hofs.toNat / 256 % 8) ∧
      put (0x210E + 2 * BitVec.ofNat 16 n) =
        .ok () { s with
          ppu := { s.ppu with bg := s.ppu.bg.on n (fun b => { b with vofs := mkWord v s.ppu.bgofsLatch }), bgofsLatch := v } }) ∧
    put 0x211B = .ok () { s with ppu := { s.ppu with m7a := mkWord v s.ppu.m7latch, m7latch := v } } ∧
    put 0x211C = .ok () { s with ppu := { s.ppu with m7b := mkWord v s.ppu.m7latch, m7latch := v } } ∧
    (∀ e ∈ ([(0x211D, fun w r => { r with m7c := w }), (0x211E, fun w r => { r with m7d := w }),
        (0x211F, fun w r => { r with m7x := w }), (0x2120, fun w r => { r with m7y := w })] :
        List (Word × (Word → PpuStored → PpuStored))),
      put e.1 = .ok () { s with
        ppu := { s.ppu with stored := e.2 (mkWord v s.ppu.m7latch) s.ppu.stored, m7latch := v } }) ∧
    (∀ e ∈ ([(0x211A, fun r => { r with m7sel := v }),
        (0x2100, fun r => { r with inidisp := v }), (0x2101, fun r => { r with obsel := v }),
        (0x2106, fun r => { r with mosaic := v }), (0x2123, fun r => { r with w12sel := v }),
        (0x2124, fun r => { r with w34sel := v }), (0x2125, fun r => { r with wobjsel := v }),
        (0x2126, fun r => { r with wh0 := v }), (0x2127, fun r => { r with wh1 := v }),
        (0x2128, fun r => { r with wh2 := v }), (0x2129, fun r => { r with wh3 := v }),
        (0x212A, fun r => { r with wbglog := v }), (0x212B, fun r => { r with wobjlog := v }),
        (0x212D, fun r => { r with ts := v }), (0x212E, fun r => { r with tmw := v }),
        (0x212F, fun r => { r with tsw := v }), (0x2130, fun r => { r with cgwsel := v }),
        (0x2131, fun r => { r with cgadsub := v }), (0x2132, fun r => { r with coldata := v }),
        (0x2133, fun r => { r with setini := v })] : List (Word × (PpuStored → PpuStored))),
      put e.1 = .ok () { s with ppu := { s.ppu with stored := e.2 s.ppu.stored } }) ∧
    put 0x2105 = .ok () { s with
      ppu := { s.ppu with
        mode := v.extractLsb' 0 3, bg3prio := v.getLsbD 3
        bg := ⟨{ s.ppu.bg.q0 with tilesize := v.getLsbD 4 }, { s.ppu.bg.q1 with tilesize := v.getLsbD 5 },
          { s.ppu.bg.q2 with tilesize := v.getLsbD 6 }, { s.ppu.bg.q3 with tilesize := v.getLsbD 7 }⟩ } } ∧
    (∀ n, n < 4 → put (0x2107 + BitVec.ofNat 16 n) = .ok () { s with
      ppu := { s.ppu with
        bg := s.ppu.bg.on n (fun b => { b with scbase := v.extractLsb' 2 6, scsize := v.extractLsb' 0 2 }) } }) ∧
    put 0x210B = .ok () { s with
      ppu := { s.ppu with
        bg := { s.ppu.bg with
          q0 := { s.ppu.bg.q0 with chbase := v.extractLsb' 0 4 }, q1 := { s.ppu.bg.q1 with chbase := v.extractLsb' 4 4 } } } } ∧
    put 0x210C = .ok () { s with
      ppu := { s.ppu with
        bg := { s.ppu.bg with
          q2 := { s.ppu.bg.q2 with chbase := v.extractLsb' 0 4 }, q3 := { s.ppu.bg.q3 with chbase := v.extractLsb' 4 4 } } } } ∧
    put 0x212C = .ok () { s with ppu := { s.ppu with tm := v } } ∧
    (∃ r0 r1 r2 : Byte, (read8 (mkAddr bank 0x2134)).run s = .ok r0 s ∧ (read8 (mkAddr bank 0x2135)).run s = .ok r1 s ∧
      (read8 (mkAddr bank 0x2136)).run s = .ok r2 s ∧
      ((r0.toNat + 256 * r1.toNat + 65536 * r2.toNat : Nat) : Int) = s.ppu.m7a.toInt * (hi s.ppu.m7b).toInt % 2 ^ 24)

/-! ## DMA and the ports -/

/-- A DMA transfer: a count that is no multiple of the unit is fatal before any access; a completed one leaves the stepped A-bus offset in
A1T and 0 in the count, every other channel byte unchanged, and adds its charge (from the model's table, log 6) to the master clock; MDMAEN
runs the channels of its bits, the lowest first; HDMAEN is fatal unless 0; and the channel bytes are read and written at their addresses,
one by one, without effect (R237, R940 to R942, R946, R947, R950, R951). -/
def Obligations.DmaTransfer : Prop :=
  ∀ (s : State) (c : Nat), c < 8 →
    let ch := dmaChannel s c
    let n := if ch.count = 0 then 0x10000 else ch.count.toNat
    let u := (dmaPattern ch.pat).length
    (n % u ≠ 0 → (runDma c).run s = .error (.fatal (.dmaCount c n u)) s) ∧
    (∀ t, Memory.wf s = true → (runDma c).run s = .ok () t →
      mkWord (dmaByte t c 3) (dmaByte t c 2) = (match ch.astep with
        | 0#2 => ch.aaddr + BitVec.ofNat 16 n
        | 2#2 => ch.aaddr - BitVec.ofNat 16 n
        | _ => ch.aaddr) ∧
      dmaByte t c 5 = 0 ∧ dmaByte t c 6 = 0 ∧
      (∀ d k, k < 16 → d ≠ c ∨ k ∉ [2, 3, 5, 6] → dmaByte t d k = dmaByte s d k) ∧
      t.sched.master = s.sched.master + dmaMaster s.cfg n ∧ t.cpu = s.cpu) ∧
    (write8 0x00420B (1#8 <<< c)).run s = (runDma c).run s ∧
    (∀ v, (write8 0x00420B v).run s = (((List.range 8).filter fun d => v.getLsbD d).forM runDma).run s) ∧
    (∀ (bank v : Byte) (k : Nat), (bank.toNat ≤ 0x3F ∨ (0x80 ≤ bank.toNat ∧ bank.toNat ≤ 0xBF)) → k < 12 →
      let a := mkAddr bank (BitVec.ofNat 16 (0x4300 + 16 * c + k))
      (read8 a).run s = .ok (dmaByte s c k) s ∧
      ∃ t, (write8 a v).run s = .ok () t ∧ t = { s with dma := t.dma } ∧
        (Memory.wf s = true → dmaByte t c k = v ∧
          ∀ d j, j < 16 → d ≠ c ∨ j ≠ k → dmaByte t d j = dmaByte s d j)) ∧
    (write8 0x00420B 0).run s = .ok () s ∧
    (write8 0x00420C 0).run s = .ok () { s with hdmaen := 0 } ∧
    (∀ v, v ≠ 0 → (write8 0x00420C v).run s = .error (.fatal (.hdmaUnimplemented v)) { s with hdmaen := v })

/-- A transfer from ROM to the WRAM port copies every byte, in order, to the places from WMADD on, wrapping in the 128 KiB, and changes
no other byte of work RAM (R233, R941, R943, R944). -/
def Obligations.DmaCopiesRom : Prop :=
  ∀ (s : State) (c : Nat), c < 8 → Memory.wf s = true →
    let ch := dmaChannel s c
    let n := if ch.count = 0 then 0x10000 else ch.count.toNat
    ch.dir = false → ch.pat = 0 → ch.astep = 0 → ch.bbad = 0x80 →
    (∀ k, k < n → ∃ i, rpage s.cfg (mkAddr ch.abank (ch.aaddr + BitVec.ofNat 16 k)) = some (.rom, i)) →
    ∃ t, (runDma c).run s = .ok () t ∧
      (∀ k, k < n → s.byte? (mkAddr ch.abank (ch.aaddr + BitVec.ofNat 16 k)) =
        some (Cells.read 0 ((s.wmadd.toNat + k) % 0x20000) t.wram)) ∧
      (∀ j, (∀ k, k < n → j ≠ (s.wmadd.toNat + k) % 0x20000) → Cells.read 0 j t.wram = Cells.read 0 j s.wram) ∧
      t.wmadd = s.wmadd + BitVec.ofNat 17 n

/-- The WRAM port and the audio ports: WMDATA reads or writes work RAM at WMADD and advances it; the 64 audio port addresses mirror four
ports, each access after a catch-up: one audio instruction after another until the audio cycles have reached the target, wherever an audio
instruction takes time, and up to one that is fatal (R232, R233, R992, R993; where it takes none, log 18). -/
def Obligations.CommunicationPorts : Prop :=
  ∀ (s : State) (bank v : Byte), (bank.toNat ≤ 0x3F ∨ (0x80 ≤ bank.toNat ∧ bank.toNat ≤ 0xBF)) →
    (read8 (mkAddr bank 0x2180)).run s = .ok (Cells.read 0 s.wmadd.toNat s.wram) { s with wmadd := s.wmadd + 1 } ∧
    (write8 (mkAddr bank 0x2180) v).run s =
      .ok () { s with wram := Cells.write 0 s.wmadd.toNat v s.wram, wmadd := s.wmadd + 1 } ∧
    (∃ m, (write8 (mkAddr bank 0x2181) v).run s = .ok () { s with wmadd := m } ∧
      m.toNat = s.wmadd.toNat / 256 * 256 + v.toNat) ∧
    (∃ m, (write8 (mkAddr bank 0x2182) v).run s = .ok () { s with wmadd := m } ∧
      m.toNat = s.wmadd.toNat / 65536 * 65536 + v.toNat * 256 + s.wmadd.toNat % 256) ∧
    (∃ m, (write8 (mkAddr bank 0x2183) v).run s = .ok () { s with wmadd := m } ∧
      m.toNat = v.toNat % 2 * 65536 + s.wmadd.toNat % 65536) ∧
    (∀ (off : Word) (u : State), 0x2140 ≤ off.toNat → off.toNat ≤ 0x217F → catchUp.run s = .ok () u →
      (read8 (mkAddr bank off)).run s = .ok (u.apu.pout.get (off.toNat % 4)) u ∧
      (write8 (mkAddr bank off) v).run s =
        .ok () { u with apu := { u.apu with pin := u.apu.pin.on (off.toNat % 4) (fun _ => v) } }) ∧
    (∀ target, target = (s.sched.master - s.apu.abase) * s.cfg.apuNum / s.cfg.apuDen →
      (target ≤ s.apu.acycles → catchUp.run s = .ok () s) ∧
      (s.apu.acycles < target → s.apu.halted = true →
        catchUp.run s = .ok () { s with apu := { s.apu with acycles := target } }) ∧
      (s.apu.acycles < target → s.apu.halted = false →
        (∀ u r, audioInstruction s.cfg s.apu = (u, some r) → catchUp.run s = .error r { s with apu := u }) ∧
        ((∀ e ∈ s.cfg.spcCosts, 1 ≤ e.2) → ∀ u, audioInstruction s.cfg s.apu = (u, none) →
          catchUp.run s = catchUp.run { s with apu := u })) ∧
      (∀ u, catchUp.run s = .ok () u → target ≤ u.apu.acycles))

/-! ## Main-CPU instructions: loads, stores, transfers, block moves -/

/-- LDA, LDX and LDY of every operand form that can be read: the register takes the value at its width, N and Z follow it, the cost is
charged, and nothing else changes but what reading the operand changed (R404, R405, R450 to R452). -/
def Obligations.Loads : Prop :=
  ∀ (s u : State) (src : Src) (v : Word) (f : Facts),
    ((srcValue src s.cpu.mW).run s = .ok (v, f) u → ∃ q,
      exec (.lda src) s = .next (u.ended (.lda src) s.cpu f { s.cpu with c := accAfter s.cpu.c s.cpu.mW v, p := q }) ∧
      NzAfter s.cpu.p q v s.cpu.mW []) ∧
    ((srcValue src s.cpu.xW).run s = .ok (v, f) u → ∃ q,
      exec (.ldx src) s = .next (u.ended (.ldx src) s.cpu f { s.cpu with x := v &&& s.cpu.xW.mask, p := q }) ∧
      NzAfter s.cpu.p q v s.cpu.xW []) ∧
    ((srcValue src s.cpu.xW).run s = .ok (v, f) u → ∃ q,
      exec (.ldy src) s = .next (u.ended (.ldy src) s.cpu f { s.cpu with y := v &&& s.cpu.xW.mask, p := q }) ∧
      NzAfter s.cpu.p q v s.cpu.xW [])

/-- Every instruction that reads a source operand completes whenever the operand is an immediate or every byte it reads is mapped, and
then changes nothing but the main CPU: no byte of memory (R404, R210, R450 to R452, R530, R533, R536 to R542). -/
def Obligations.MappedOperandsComplete : Prop :=
  ∀ (s : State) (src : Src) (r : Word × Facts),
    (s.value? s.cpu.mW src = some r → (srcValue src s.cpu.mW).run s = .ok r s ∧
      ∀ i ∈ [Instr.lda src, .adc src, .sbc src, .cmp src, .and src, .ora src, .eor src, .bit src],
        ∃ b, exec i s = .next (s.onCpu fun _ => b)) ∧
    (s.value? s.cpu.xW src = some r → (srcValue src s.cpu.xW).run s = .ok r s ∧
      ∀ i ∈ [Instr.ldx src, .ldy src, .cpx src, .cpy src], ∃ b, exec i s = .next (s.onCpu fun _ => b))

/-- STA, STX, STY and STZ: the register's value, or 0, goes to the effective address at its width, no flag or register changes; in memory
every other byte reads as before, and through the bus of a device the effect is that of the bus writes (R453 to R456). -/
def Obligations.Stores : Prop :=
  ∀ (s : State) (m : AddrMode) (l : Loc) (x : Bool),
    let cases := [(Instr.sta m, s.cpu.mW, s.cpu.acc s.cpu.mW), (Instr.stx m, s.cpu.xW, s.cpu.x),
      (Instr.sty m, s.cpu.xW, s.cpu.y), (Instr.stz m, s.cpu.mW, 0)]
    ∀ e ∈ cases,
      (Memory.wf s = true → s.loc? m = some (l, x) → s.writable l e.2.1 = true → ∃ t, exec e.1 s = .next t ∧
        Stored s t l e.2.1 e.2.2 ∧ t.cpu = Cpu.charge (instrCost s.cfg e.1 s.cpu (Facts.index x)) s.cpu) ∧
      (∀ s1 u, (resolve m).run s = .ok (l, x) s1 → (memWrite l e.2.1 e.2.2).run s1 = .ok () u →
        exec e.1 s = .next (u.ended e.1 s.cpu (Facts.index x) s.cpu))

/-- The instructions of registers alone: transfers, exchanges and counting. Each gives its register the value its rule says, sets N and Z
from it, or no flag, and changes nothing else (R457 to R469, R547 to R550). -/
def Obligations.RegisterInstructions : Prop :=
  ∀ (s : State),
    let b := s.cpu
    let xm := s.cpu.xW.mask
    (∀ e ∈ [
        (Instr.tax, (fun (q : Byte) => { b with x := b.c &&& xm, p := q }), b.c, b.xW),
        (Instr.tay, (fun q => { b with y := b.c &&& xm, p := q }), b.c, b.xW),
        (Instr.txa, (fun q => { b with c := accAfter b.c b.mW b.x, p := q }), b.x, b.mW),
        (Instr.tya, (fun q => { b with c := accAfter b.c b.mW b.y, p := q }), b.y, b.mW),
        (Instr.txy, (fun q => { b with y := b.x &&& xm, p := q }), b.x, b.xW),
        (Instr.tyx, (fun q => { b with x := b.y &&& xm, p := q }), b.y, b.xW),
        (Instr.tsx, (fun q => { b with x := b.s &&& xm, p := q }), b.s, b.xW),
        (Instr.tsc, (fun q => { b with c := b.s, p := q }), b.s, Width.w16),
        (Instr.tcd, (fun q => { b with d := b.c, p := q }), b.c, Width.w16),
        (Instr.tdc, (fun q => { b with c := b.d, p := q }), b.d, Width.w16),
        (Instr.xba, (fun q => { b with c := mkWord (lo b.c) (hi b.c), p := q }), zext (hi b.c), Width.w8),
        (Instr.inx, (fun q => { b with x := (b.x + 1) &&& xm, p := q }), b.x + 1, b.xW),
        (Instr.iny, (fun q => { b with y := (b.y + 1) &&& xm, p := q }), b.y + 1, b.xW),
        (Instr.dex, (fun q => { b with x := (b.x - 1) &&& xm, p := q }), b.x - 1, b.xW),
        (Instr.dey, (fun q => { b with y := (b.y - 1) &&& xm, p := q }), b.y - 1, b.xW)],
      ∃ q, exec e.1 s = .next (s.ended e.1 b Facts.plain (e.2.1 q)) ∧ NzAfter b.p q e.2.2.1 e.2.2.2 []) ∧
    exec .txs s = .next (s.ended .txs b Facts.plain { b with s := if b.e then mkWord 0x01 (lo b.x) else b.x }) ∧
    exec .tcs s = .next (s.ended .tcs b Facts.plain { b with s := if b.e then mkWord 0x01 (lo b.c) else b.c })

/-- One execution of MVN or MVP moves one byte, steps X and Y at the index width, counts C at 16 bits, sets DBR to the destination bank,
and repeats the instruction until C has passed 0; no flag changes (R430, R470, R471). -/
def Obligations.BlockMoves : Prop :=
  ∀ (s u : State) (dst src v : Byte), s.byte? (mkAddr src s.cpu.x) = some v → s.poke? (mkAddr dst s.cpu.y) v = some u →
    exec (.mvn dst src) s = .next (u.ended (.mvn dst src) s.cpu Facts.plain
      { s.cpu with
        dbr := dst, x := (s.cpu.x + 1) &&& s.cpu.xW.mask, y := (s.cpu.y + 1) &&& s.cpu.xW.mask, c := s.cpu.c - 1
        pc := if s.cpu.c = 0 then s.cpu.pc else s.cpu.pc - 3 }) ∧
    exec (.mvp dst src) s = .next (u.ended (.mvp dst src) s.cpu Facts.plain
      { s.cpu with
        dbr := dst, x := (s.cpu.x - 1) &&& s.cpu.xW.mask, y := (s.cpu.y - 1) &&& s.cpu.xW.mask, c := s.cpu.c - 1
        pc := if s.cpu.c = 0 then s.cpu.pc else s.cpu.pc - 3 })

/-! ## Main-CPU instructions: the stack -/

/-- The push instructions: where the stack bytes are writable, the value named is pushed, S moves, and nothing else changes
(R502 to R508, R515 to R517). -/
def Obligations.Pushes : Prop :=
  ∀ (s u : State),
    let b := s.cpu
    (s.pushW? (b.acc b.mW) b.mW = some u → exec .pha s = .next (u.ended .pha b Facts.plain u.cpu)) ∧
    (s.pushW? b.x b.xW = some u → exec .phx s = .next (u.ended .phx b Facts.plain u.cpu)) ∧
    (s.pushW? b.y b.xW = some u → exec .phy s = .next (u.ended .phy b Facts.plain u.cpu)) ∧
    (s.push8? b.p = some u → exec .php s = .next (u.ended .php b Facts.plain u.cpu)) ∧
    (s.push8? b.dbr = some u → exec .phb s = .next (u.ended .phb b Facts.plain u.cpu)) ∧
    (s.push8? b.pbr = some u → exec .phk s = .next (u.ended .phk b Facts.plain u.cpu)) ∧
    (s.push16? b.d = some u → exec .phd s = .next (u.ended .phd b Facts.plain u.cpu)) ∧
    (∀ v, s.push16? v = some u → exec (.pea v) s = .next (u.ended (.pea v) b Facts.plain u.cpu)) ∧
    (∀ o v, s.word? (.bank 0 (b.d + zext o)) .w16 = some v → s.push16? v = some u →
      exec (.pei o) s = .next (u.ended (.pei o) b Facts.plain u.cpu)) ∧
    (∀ rel, s.push16? (b.pc + rel) = some u → exec (.per rel) s = .next (u.ended (.per rel) b Facts.plain u.cpu))

/-- What a push does, and that a pull undoes it: the byte goes to bank 0 at S, S goes down, staying in page 1 in emulation mode; a word
is pushed high byte first and pulled low byte first (R500, R501). -/
def Obligations.PushAndPull : Prop :=
  ∀ (s t : State), Memory.wf s = true →
    (∀ v, s.push8? v = some t →
      t.cpu = { s.cpu with s := if s.cpu.e then 0x0100 ||| ((s.cpu.s - 1) &&& 0x00FF) else s.cpu.s - 1 } ∧
      t.byte? (mkAddr 0 s.cpu.s) = some v ∧ s.SameBytes t [mkAddr 0 s.cpu.s] ∧
      t = { s with cpu := t.cpu, wram := t.wram, sram := t.sram } ∧
      (s.cpu.Ok → t.pull8? = some (v, { t with cpu := s.cpu }))) ∧
    (∀ v, s.cpu.Ok → s.push16? v = some t → rpage s.cfg (mkAddr 0 s.cpu.s) ≠ rpage s.cfg (mkAddr 0 s.cpu.decS.s) →
      t.byte? (mkAddr 0 s.cpu.s) = some (hi v) ∧ t.byte? (mkAddr 0 s.cpu.decS.s) = some (lo v) ∧
      s.SameBytes t [mkAddr 0 s.cpu.s, mkAddr 0 s.cpu.decS.s] ∧ t.pull16? = some (v, { t with cpu := s.cpu }))

/-- The pull instructions: where the stack bytes are mapped, the register takes the value pulled, N and Z follow it, PLP writes all of P
with the forced modes, and memory is unchanged (R509 to R514, R620). -/
def Obligations.Pulls : Prop :=
  ∀ (s u : State),
    let b := s.cpu
    (∀ v, s.pullW? b.mW = some (v, u) → ∃ q,
      exec .pla s = .next (s.ended .pla b Facts.plain { u.cpu with c := accAfter b.c b.mW v, p := q }) ∧ NzAfter b.p q v b.mW []) ∧
    (∀ v, s.pullW? b.xW = some (v, u) → ∃ q,
      exec .plx s = .next (s.ended .plx b Facts.plain { u.cpu with x := v, p := q }) ∧ NzAfter b.p q v b.xW []) ∧
    (∀ v, s.pullW? b.xW = some (v, u) → ∃ q,
      exec .ply s = .next (s.ended .ply b Facts.plain { u.cpu with y := v, p := q }) ∧ NzAfter b.p q v b.xW []) ∧
    (∀ v, s.pull8? = some (v, u) → exec .plp s = .next (s.ended .plp b Facts.plain (u.cpu.withP v))) ∧
    (∀ v, s.pull8? = some (v, u) → ∃ q,
      exec .plb s = .next (s.ended .plb b Facts.plain { u.cpu with dbr := v, p := q }) ∧ NzAfter b.p q (zext v) .w8 []) ∧
    (∀ v, s.pull16? = some (v, u) → ∃ q,
      exec .pld s = .next (s.ended .pld b Facts.plain { u.cpu with d := v, p := q }) ∧ NzAfter b.p q v .w16 [])

/-! ## Main-CPU instructions: arithmetic and logic -/

/-- ADC and SBC of every operand form that can be read, binary or decimal by D: the accumulator takes the result, N and Z follow it, C and
V are the result's, and no other register or flag changes (R530, R533). -/
def Obligations.AddAndSubtract : Prop :=
  ∀ (s u : State) (src : Src) (v : Word) (f : Facts), (srcValue src s.cpu.mW).run s = .ok (v, f) u →
    let w := s.cpu.mW
    let a := s.cpu.acc w
    ∀ e ∈ [(Instr.adc src, adcResult (s.cpu.flag fD) w a v (s.cpu.flag fC)),
        (Instr.sbc src, sbcResult (s.cpu.flag fD) w a v (s.cpu.flag fC))],
      ∃ q, exec e.1 s = .next (u.ended e.1 s.cpu f { s.cpu with c := accAfter s.cpu.c w e.2.r, p := q }) ∧
        NzAfter s.cpu.p q e.2.r w [0, 6] ∧ q.getLsbD 0 = e.2.c ∧ q.getLsbD 6 = e.2.v

/-- Binary addition and subtraction are those of integers at the operand's width: the result modulo 2^(8w), carry or no borrow, and signed
overflow exactly when the signed result does not fit (R531, R533). -/
def Obligations.BinaryArithmetic : Prop :=
  ∀ (w : Width) (a v : Word) (c : Bool), a.toNat < 2 ^ w.bits → v.toNat < 2 ^ w.bits →
    (adcResult false w a v c).r.toNat = (a.toNat + v.toNat + c.toNat) % 2 ^ w.bits ∧
    (adcResult false w a v c).c = decide (2 ^ w.bits ≤ a.toNat + v.toNat + c.toNat) ∧
    (adcResult false w a v c).v = w.outOfRange (w.signed a + w.signed v + (c.toNat : Int)) ∧
    (sbcResult false w a v c).r.toNat = (a.toNat + 2 ^ w.bits - v.toNat - (1 - c.toNat)) % 2 ^ w.bits ∧
    (sbcResult false w a v c).c = decide (v.toNat + (1 - c.toNat) ≤ a.toNat) ∧
    (sbcResult false w a v c).v = w.outOfRange (w.signed a - w.signed v - (1 - (c.toNat : Int)))

/-- On decimal operands the decimal algorithms are decimal addition and subtraction with carry: the result is decimal, its value is the sum
or difference modulo 10^digits, and C is the carry or no borrow (R532, R534, R535). -/
def Obligations.DecimalArithmetic : Prop :=
  ∀ (w : Width) (a v : Word) (c : Bool), w.isBcd a → w.isBcd v →
    w.isBcd (adcResult true w a v c).r ∧
    bcdValue (adcResult true w a v c).r = (bcdValue a + bcdValue v + c.toNat) % 10 ^ w.digits ∧
    (adcResult true w a v c).c = decide (10 ^ w.digits ≤ bcdValue a + bcdValue v + c.toNat) ∧
    w.isBcd (sbcResult true w a v c).r ∧
    bcdValue (sbcResult true w a v c).r = (bcdValue a + 10 ^ w.digits - bcdValue v - (1 - c.toNat)) % 10 ^ w.digits ∧
    (sbcResult true w a v c).c = decide (bcdValue v + (1 - c.toNat) ≤ bcdValue a)

/-- CMP, CPX and CPY of every operand form that can be read: C is register at least operand, N and Z come from the difference, V and every
register stay (R535 to R538). -/
def Obligations.Compares : Prop :=
  ∀ (s u : State) (src : Src) (v : Word) (f : Facts),
    ∀ e ∈ [(Instr.cmp src, s.cpu.mW, s.cpu.acc s.cpu.mW), (Instr.cpx src, s.cpu.xW, s.cpu.x), (Instr.cpy src, s.cpu.xW, s.cpu.y)],
      (srcValue src e.2.1).run s = .ok (v, f) u →
      ∃ q, exec e.1 s = .next (u.ended e.1 s.cpu f { s.cpu with p := q }) ∧
        NzAfter s.cpu.p q (e.2.2 - v) e.2.1 [0] ∧ q.getLsbD 0 = decide (v.toNat ≤ e.2.2.toNat)

/-- AND, ORA, EOR and BIT of every operand form that can be read: the logical result and its N and Z; BIT writes no register, and its N and
V are the operand's top two bits except for the immediate form, which leaves them (R539 to R542). -/
def Obligations.LogicAndBit : Prop :=
  ∀ (s u : State) (src : Src) (v : Word) (f : Facts), (srcValue src s.cpu.mW).run s = .ok (v, f) u →
    let w := s.cpu.mW
    let a := s.cpu.acc w
    (∀ e ∈ [(Instr.and src, a &&& v), (Instr.ora src, a ||| v), (Instr.eor src, a ^^^ v)],
      ∃ q, exec e.1 s = .next (u.ended e.1 s.cpu f { s.cpu with c := accAfter s.cpu.c w e.2, p := q }) ∧
        NzAfter s.cpu.p q e.2 w []) ∧
    (∃ q, exec (.bit src) s = .next (u.ended (.bit src) s.cpu f { s.cpu with p := q }) ∧
      q.getLsbD 1 = decide (a &&& v = 0) ∧
      (∀ k, src = .imm k → ∀ i, i ≠ 1 → q.getLsbD i = s.cpu.p.getLsbD i) ∧
      (∀ m, src = .mem m → q.getLsbD 7 = v.getLsbD (w.bits - 1) ∧ q.getLsbD 6 = v.getLsbD (w.bits - 2) ∧
        ∀ i, i ≠ 1 → i ≠ 6 → i ≠ 7 → q.getLsbD i = s.cpu.p.getLsbD i))

/-- INC, DEC and the shifts and rotates, on the accumulator and on memory: the result at the accumulator's width, N and Z from it, C the bit
shifted out (INC and DEC leave C), the memory forms writing back through the address they read; a device's register is read and
written once, C being set before the write (R432, R545, R546, R551 to R555). -/
def Obligations.ReadModifyWrite : Prop :=
  ∀ (s : State),
    let w := s.cpu.mW
    let c := s.cpu.flag fC
    ∀ e ∈ ([
        (Instr.inc, (fun v => ((v + 1) &&& w.mask, c))),
        (Instr.dec, (fun v => ((v - 1) &&& w.mask, c))),
        (Instr.asl, (fun v => ((v <<< 1) &&& w.mask, v.getLsbD (w.bits - 1)))),
        (Instr.lsr, (fun v => (v >>> 1, v.getLsbD 0))),
        (Instr.rol, (fun v => (((v <<< 1) ||| (if c then 1 else 0)) &&& w.mask, v.getLsbD (w.bits - 1)))),
        (Instr.ror, (fun v => ((v >>> 1) ||| (if c then 1#16 <<< (w.bits - 1) else 0), v.getLsbD 0)))] :
        List ((Rmw → Instr) × (Word → Word × Bool))),
      (∃ q, exec (e.1 .acc) s = .next (s.ended (e.1 .acc) s.cpu Facts.plain
          { s.cpu with c := accAfter s.cpu.c w (e.2 (s.cpu.acc w)).1, p := q }) ∧
        NzAfter s.cpu.p q (e.2 (s.cpu.acc w)).1 w [0] ∧ q.getLsbD 0 = (e.2 (s.cpu.acc w)).2) ∧
      (∀ m l x v, Memory.wf s = true → s.loc? m = some (l, x) → s.word? l w = some v → s.writable l w = true →
        ∃ t q, exec (e.1 (.mem m)) s = .next t ∧ Stored s t l w (e.2 v).1 ∧
          t.cpu = Cpu.charge (instrCost s.cfg (e.1 (.mem m)) s.cpu (Facts.index x)) { s.cpu with p := q } ∧
          NzAfter s.cpu.p q (e.2 v).1 w [0] ∧ q.getLsbD 0 = (e.2 v).2) ∧
      (∀ m l x v s1 s2, (resolve m).run s = .ok (l, x) s1 → (memRead l w).run s1 = .ok v s2 →
        ∃ q1 q, q1.getLsbD 0 = (e.2 v).2 ∧ (∀ i, i ≠ 0 → q1.getLsbD i = s.cpu.p.getLsbD i) ∧
          NzAfter s.cpu.p q (e.2 v).1 w [0] ∧ q.getLsbD 0 = (e.2 v).2 ∧
          ∀ u, (memWrite l w (e.2 v).1).run (s2.onCpu fun b => { b with p := q1 }) = .ok () u →
            exec (e.1 (.mem m)) s = .next (u.ended (e.1 (.mem m)) s.cpu (Facts.index x) { s.cpu with p := q }))

/-- TSB and TRB: Z from the AND of accumulator and memory, the memory's bits set or cleared, no other flag or register changed; a device's
register is read and written once, Z being set before the write
(R432, R543, R544). -/
def Obligations.TestAndSetBits : Prop :=
  ∀ (s : State) (m : AddrMode) (l : Loc) (x : Bool) (v : Word),
    let w := s.cpu.mW
    let a := s.cpu.acc w
    ∀ e ∈ [(Instr.tsb m, v ||| a), (Instr.trb m, v &&& ~~~a &&& w.mask)],
      (Memory.wf s = true → s.loc? m = some (l, x) → s.word? l w = some v → s.writable l w = true →
        ∃ t q, exec e.1 s = .next t ∧ Stored s t l w e.2 ∧
          t.cpu = Cpu.charge (instrCost s.cfg e.1 s.cpu (Facts.index x)) { s.cpu with p := q } ∧
          q.getLsbD 1 = decide (a &&& v = 0) ∧ ∀ i, i ≠ 1 → q.getLsbD i = s.cpu.p.getLsbD i) ∧
      (∀ s1 s2, (resolve m).run s = .ok (l, x) s1 → (memRead l w).run s1 = .ok v s2 →
        ∃ q, q.getLsbD 1 = decide (a &&& v = 0) ∧ (∀ i, i ≠ 1 → q.getLsbD i = s.cpu.p.getLsbD i) ∧
          ∀ u, (memWrite l w e.2).run (s2.onCpu fun b => { b with p := q }) = .ok () u →
            exec e.1 s = .next (u.ended e.1 s.cpu (Facts.index x) { s.cpu with p := q }))

/-! ## Main-CPU instructions: control and flags -/

/-- The branches: taken exactly when their condition holds, to the address after the branch plus the signed offset, in the program bank; by
default 2 cycles, 1 more if taken, 1 more if taken in emulation mode to another page; BRA is always taken; nothing else changes
(R423, R580 to R589). -/
def Obligations.Branches : Prop :=
  ∀ (s : State) (r : Byte),
    let b := s.cpu
    let target := b.pc + r.signExtend 16
    ∀ e ∈ [(Instr.bpl r, !b.p.getLsbD 7), (Instr.bmi r, b.p.getLsbD 7), (Instr.bvc r, !b.p.getLsbD 6),
        (Instr.bvs r, b.p.getLsbD 6), (Instr.bcc r, !b.p.getLsbD 0), (Instr.bcs r, b.p.getLsbD 0),
        (Instr.bne r, !b.p.getLsbD 1), (Instr.beq r, b.p.getLsbD 1), (Instr.bra r, true)],
      let f : Facts := ⟨false, e.2, decide (hi b.pc ≠ hi target)⟩
      exec e.1 s = .next (s.ended e.1 b f { b with pc := if e.2 then target else b.pc }) ∧
      (s.cfg.cpuCosts = [] →
        instrCost s.cfg e.1 b f = if e.2 then (if b.e = true ∧ hi b.pc ≠ hi target then 4 else 3) else 2)

/-- The jumps and BRL: direct targets always complete; an indirect target does where its pointer is mapped, read from bank 0, or from the
program bank for the indexed form; only PC, and PBR for the long jumps, changes; BRL, by default 4 cycles, has the cost facts of a taken
branch to its target (R424 to R429, R590 to R595, R1070). -/
def Obligations.Jumps : Prop :=
  ∀ (s : State) (a : Word) (q : Addr),
    let b := s.cpu
    let f : Facts := ⟨false, true, decide (hi b.pc ≠ hi (b.pc + a))⟩
    exec (.brl a) s = .next (s.ended (.brl a) b f { b with pc := b.pc + a }) ∧
    (s.cfg.cpuCosts = [] → instrCost s.cfg (.brl a) b f = 4) ∧
    exec (.jmp a) s = .next (s.ended (.jmp a) b Facts.plain { b with pc := a }) ∧
    exec (.jml q) s = .next (s.ended (.jml q) b Facts.plain { b with pc := q.extractLsb' 0 16, pbr := q.extractLsb' 16 8 }) ∧
    (∀ t, s.word? (.bank 0 a) .w16 = some t →
      exec (.jmpInd a) s = .next (s.ended (.jmpInd a) b Facts.plain { b with pc := t })) ∧
    (∀ t, s.word? (.bank b.pbr (a + b.x)) .w16 = some t →
      exec (.jmpIndX a) s = .next (s.ended (.jmpIndX a) b Facts.plain { b with pc := t })) ∧
    (∀ t, s.far? (.bank 0 a) = some t →
      exec (.jmlInd a) s = .next (s.ended (.jmlInd a) b Facts.plain
        { b with pc := t.extractLsb' 0 16, pbr := t.extractLsb' 16 8 }))

/-- The calls push the address of their own last byte, JSL the program bank before it, and jump; the returns pull it and resume one past it
(R596 to R600). -/
def Obligations.CallsAndReturns : Prop :=
  ∀ (s u : State) (a t : Word) (q : Addr) (k : Byte),
    let b := s.cpu
    (s.push16? (b.pc - 1) = some u →
      exec (.jsr a) s = .next (u.ended (.jsr a) b Facts.plain { u.cpu with pc := a }) ∧
      (u.word? (.bank b.pbr (a + b.x)) .w16 = some t →
        exec (.jsrIndX a) s = .next (u.ended (.jsrIndX a) b Facts.plain { u.cpu with pc := t }))) ∧
    ((s.push8? b.pbr).bind (State.push16? (b.pc - 1)) = some u →
      exec (.jsl q) s = .next (u.ended (.jsl q) b Facts.plain
        { u.cpu with pc := q.extractLsb' 0 16, pbr := q.extractLsb' 16 8 })) ∧
    (s.pull16? = some (t, u) →
      exec .rts s = .next (s.ended .rts b Facts.plain { u.cpu with pc := t + 1 }) ∧
      (∀ u', u.pull8? = some (k, u') →
        exec .rtl s = .next (s.ended .rtl b Facts.plain { u'.cpu with pc := t + 1, pbr := k })))

/-- The flag and mode instructions: the single-flag instructions change one bit of P; REP and SEP write P with the forced modes; XCE
exchanges C and E, and entering emulation mode sets M and X, clears the index high bytes and puts S in page 1 (R620 to R630). -/
def Obligations.FlagInstructions : Prop :=
  ∀ (s : State) (v : Byte),
    let b := s.cpu
    (∀ e ∈ [(Instr.clc, 0, false), (Instr.sec, 0, true), (Instr.cli, 2, false), (Instr.sei, 2, true), (Instr.cld, 3, false),
        (Instr.sed, 3, true), (Instr.clv, 6, false)],
      ∃ q : Byte, exec e.1 s = .next (s.ended e.1 b Facts.plain { b with p := q }) ∧ q.getLsbD e.2.1 = e.2.2 ∧
        ∀ i, i ≠ e.2.1 → q.getLsbD i = b.p.getLsbD i) ∧
    exec (.rep v) s = .next (s.ended (.rep v) b Facts.plain (b.withP (b.p &&& ~~~v))) ∧
    exec (.sep v) s = .next (s.ended (.sep v) b Facts.plain (b.withP (b.p ||| v))) ∧
    (b.p.getLsbD 0 = false → ∃ q : Byte, exec .xce s = .next (s.ended .xce b Facts.plain { b with p := q, e := false }) ∧
      q.getLsbD 0 = b.e ∧ ∀ i, i ≠ 0 → q.getLsbD i = b.p.getLsbD i) ∧
    (b.p.getLsbD 0 = true → ∃ q : Byte,
      exec .xce s = .next (s.ended .xce b Facts.plain
        { b with p := q, e := true, x := b.x &&& 0x00FF, y := b.y &&& 0x00FF, s := mkWord 0x01 (lo b.s) }) ∧
      q.getLsbD 0 = b.e ∧ q.getLsbD 5 = true ∧ q.getLsbD 4 = true ∧
      ∀ i, i ≠ 0 → i ≠ 4 → i ≠ 5 → q.getLsbD i = b.p.getLsbD i)

/-- NOP and WDM do nothing but take their cycles, 2 by default, whatever WDM's byte; WAI sets `waiting` and STP sets `stopped`, 3 cycles
each by default, and nothing else changes (R631 to R634, R1070). -/
def Obligations.NoOperationAndHalts : Prop :=
  ∀ (s : State) (v : Byte),
    exec .nop s = .next (s.ended .nop s.cpu Facts.plain s.cpu) ∧
    exec (.wdm v) s = .next (s.ended (.wdm v) s.cpu Facts.plain s.cpu) ∧
    exec .wai s = .next (s.ended .wai s.cpu Facts.plain { s.cpu with waiting := true }) ∧
    exec .stp s = .next (s.ended .stp s.cpu Facts.plain { s.cpu with stopped := true }) ∧
    (s.cfg.cpuCosts = [] → ∀ e ∈ [(Instr.nop, 2), (Instr.wdm v, 2), (Instr.wai, 3), (Instr.stp, 3)],
      instrCost s.cfg e.1 s.cpu Facts.plain = e.2)

/-! ## The audio CPU -/

/-- Every audio instruction completes from every state, changing only the audio subsystem and adding its cost to its cycles, at least 2
unless the cost parameter lists less; an audio step, where its code bytes are no I/O registers, is `exec` of the instruction they decode
to with pc past them; and an unimplemented opcode, wherever it is fetched from, is fatal with the pc of the opcode and the opcode: once it is
fetched no operand byte is, and no state changes (R650, R763, R830, R980, R1071; log 11). -/
def Obligations.AudioInstructionsRun : Prop :=
  (∀ (i : Instr) (s : State), i.isAudio = true → i.wf = true →
    (∃ u taken, exec i s = .next { s with apu := u } ∧ u.acycles = s.apu.acycles + audioCost s.cfg i taken) ∧
    ((∀ e ∈ s.cfg.spcCosts, 2 ≤ e.2) → ∀ taken, 2 ≤ audioCost s.cfg i taken)) ∧
  (∀ (s : State) (i : Instr) (op : Byte) (bs : List Byte),
    s.apu.code? (bs.length + 1) s.apu.pc = some (op :: bs) → op ∉ s.cfg.unimplSpcOps → decodeAudio (op :: bs) = some (i, []) →
    (audioInstruction s.cfg s.apu).2 = none ∧
    exec i { s with apu := { s.apu with pc := s.apu.pc + BitVec.ofNat 16 (bs.length + 1) } } =
      .next { s with apu := (audioInstruction s.cfg s.apu).1 }) ∧
  (∀ (s : State) (op : Byte), op ∈ s.cfg.unimplSpcOps →
    (s.apu.byte? s.apu.pc = some op →
      audioInstruction s.cfg s.apu =
        ({ s.apu with pc := s.apu.pc + 1 }, some (.fatal (.unimplementedSpcOpcode s.apu.pc op)))) ∧
    (∀ u, s.audio afetch = (op, u) →
      audioInstruction s.cfg s.apu = (u, some (.fatal (.unimplementedSpcOpcode s.apu.pc op)))))

/-- The audio bus, the effective addresses and the operands: a read of an address that is no I/O register gives RAM, or boot ROM where it is
mapped, and changes nothing; every write reaches RAM and no other RAM byte; direct-page sums wrap in their page; a source is its immediate
or the byte at its address; each ALU form has its left and right operand, read in order, and its destination; a word is read and written
low byte first, its high byte wrapping in the page (R651, R652, R659, R985, R986). -/
def Obligations.AudioAccesses : Prop :=
  ∀ (s : State) (a : Word) (o v : Byte),
    let u := s.apu
    let page : Word := if u.psw.getLsbD 5 then 0x0100 else 0x0000
    (∀ r, u.byte? a = some r → s.audio (aread a) = (r, u)) ∧
    (u.byte? a ≠ none → s.audio (awrite a v) = ((), u.putRam a v)) ∧
    (Cells.wf 0 0x10000 u.aram = true → Cells.read 0 a.toNat (s.audio (awrite a v)).2.aram = v ∧
      ∀ b : Word, b ≠ a → Cells.read 0 b.toNat (s.audio (awrite a v)).2.aram = Cells.read 0 b.toNat u.aram) ∧
    s.audio (aaddr (.d o)) = (page + zext o, u) ∧
    s.audio (aaddr (.dx o)) = (page + zext (o + u.x), u) ∧
    s.audio (aaddr (.dy o)) = (page + zext (o + u.y), u) ∧
    s.audio (aaddr .ix) = (page + zext u.x, u) ∧
    s.audio (aaddr (.abs a)) = (a, u) ∧
    s.audio (aaddr (.absx a)) = (a + zext u.x, u) ∧
    s.audio (aaddr (.absy a)) = (a + zext u.y, u) ∧
    (∀ l h, u.byte? (page + zext (o + u.x)) = some l → u.byte? (page + zext (o + u.x + 1)) = some h →
      s.audio (aaddr (.idx o)) = (mkWord h l, u)) ∧
    (∀ l h, u.byte? (page + zext o) = some l → u.byte? (page + zext (o + 1)) = some h →
      s.audio (aaddr (.idy o)) = (mkWord h l + zext u.y, u)) ∧
    s.audio (asrc (.imm v)) = (v, u) ∧
    (∀ m e t, s.audio (aaddr m) = (e, t) → s.audio (asrc (.mem m)) = s.audioOn t (aread e)) ∧
    (∀ src r t, s.audio (asrc src) = (r, t) → s.audio (aluOperands (.acc src)) = ((u.a, r, none), t)) ∧
    (∀ d r t l w, s.audio (aread (page + zext o)) = (r, t) → s.audioOn t (aread (page + zext d)) = (l, w) →
      s.audio (aluOperands (.dd o d)) = ((l, r, some (page + zext d)), w)) ∧
    (∀ l t, s.audio (aread (page + zext o)) = (l, t) →
      s.audio (aluOperands (.dImm v o)) = ((l, v, some (page + zext o)), t)) ∧
    (∀ r t l w, s.audio (aread (page + zext u.y)) = (r, t) → s.audioOn t (aread (page + zext u.x)) = (l, w) →
      s.audio (aluOperands .xy) = ((l, r, some (page + zext u.x)), w)) ∧
    s.audio (aluStore none v) = ((), { u with a := v }) ∧
    s.audio (aluStore (some a) v) = s.audio (awrite a v) ∧
    (∀ l t h w, s.audio (aread (page + zext o)) = (l, t) → s.audioOn t (aread (page + zext (o + 1))) = (h, w) →
      s.audio (wordRead o) = (mkWord h l, w)) ∧
    (∀ w t, s.audio (awrite (page + zext o) (lo w)) = ((), t) →
      s.audio (wordWrite o w) = s.audioOn t (awrite (page + zext (o + 1)) (hi w)))

/-- The audio moves: a load puts the operand's byte in its register and sets n and z from it; a store writes its register at the effective
address and sets no flag; register moves set n and z except MOV SP,X; the memory moves and the post-increment forms (R654 to R658). -/
def Obligations.AudioMoves : Prop :=
  ∀ (s : State) (src : ASrc) (m : AMode) (i d : Byte),
    let u := s.apu
    (∀ r, r = s.audio (asrc src) →
      (∃ q, exec (.aMovA src) s = .next (s.audioEnded (.aMovA src) false { r.2 with a := r.1, psw := q }) ∧
        NzAfter r.2.psw q (zext r.1) .w8 []) ∧
      (∃ q, exec (.aMovX src) s = .next (s.audioEnded (.aMovX src) false { r.2 with x := r.1, psw := q }) ∧
        NzAfter r.2.psw q (zext r.1) .w8 []) ∧
      (∃ q, exec (.aMovY src) s = .next (s.audioEnded (.aMovY src) false { r.2 with y := r.1, psw := q }) ∧
        NzAfter r.2.psw q (zext r.1) .w8 [])) ∧
    (∀ t, t = s.audio (aaddr m) →
      exec (.aMovStA m) s = .next (s.audioEnded (.aMovStA m) false (s.audioOn t.2 (awrite t.1 u.a)).2) ∧
      exec (.aMovStX m) s = .next (s.audioEnded (.aMovStX m) false (s.audioOn t.2 (awrite t.1 u.x)).2) ∧
      exec (.aMovStY m) s = .next (s.audioEnded (.aMovStY m) false (s.audioOn t.2 (awrite t.1 u.y)).2)) ∧
    (∀ e ∈ [(Instr.aMovXA, (fun q : Byte => { u with x := u.a, psw := q }), u.a),
        (Instr.aMovAX, (fun q => { u with a := u.x, psw := q }), u.x),
        (Instr.aMovYA, (fun q => { u with y := u.a, psw := q }), u.a),
        (Instr.aMovAY, (fun q => { u with a := u.y, psw := q }), u.y),
        (Instr.aMovXSp, (fun q => { u with x := u.sp, psw := q }), u.sp)],
      ∃ q, exec e.1 s = .next (s.audioEnded e.1 false (e.2.1 q)) ∧ NzAfter u.psw q (zext e.2.2) .w8 []) ∧
    exec .aMovSpX s = .next (s.audioEnded .aMovSpX false { u with sp := u.x }) ∧
    (∀ r, r = s.audio (aread (u.page + zext i)) →
      exec (.aMovDD i d) s = .next (s.audioEnded (.aMovDD i d) false (s.audioOn r.2 (awrite (u.page + zext d) r.1)).2)) ∧
    exec (.aMovDI i d) s = .next (s.audioEnded (.aMovDI i d) false (s.audio (awrite (u.page + zext d) i)).2) ∧
    (∀ t, t = (s.audio (awrite (u.page + zext u.x) u.a)).2 →
      exec .aMovIncA s = .next (s.audioEnded .aMovIncA false { t with x := u.x + 1 })) ∧
    (∀ r, r = s.audio (aread (u.page + zext u.x)) → ∃ q,
      exec .aMovAInc s = .next (s.audioEnded .aMovAInc false { r.2 with a := r.1, x := u.x + 1, psw := q }) ∧
      NzAfter r.2.psw q (zext r.1) .w8 [])

/-- The audio ALU operations in all twelve forms: ADC and SBC give the 8-bit sum with carry, c, the signed overflow v, the half carry h, n and
z; CMP writes nothing; AND, OR and EOR set n and z; the result goes where the form says (R653, R659 to R665). -/
def Obligations.AudioArithmetic : Prop :=
  ∀ (s : State) (op : AAlu) (src : ASrc),
    (∀ l r dst u, s.audio (aluOperands op) = ((l, r, dst), u) →
      let c := u.psw.getLsbD 0
      (∀ e ∈ [(Instr.aAdc op, r), (Instr.aSbc op, ~~~r)],
        ∃ q, exec e.1 s = .next (s.audioEnded e.1 false
            (s.audioOn { u with psw := q } (aluStore dst (l + e.2 + (if c then 1 else 0)))).2) ∧
          NzAfter u.psw q (zext (l + e.2 + (if c then 1 else 0))) .w8 [0, 3, 6] ∧
          q.getLsbD 0 = decide (256 ≤ l.toNat + e.2.toNat + c.toNat) ∧
          q.getLsbD 3 = decide (16 ≤ l.toNat % 16 + e.2.toNat % 16 + c.toNat) ∧
          q.getLsbD 6 = (decide (l.toInt + e.2.toInt + (c.toNat : Int) < -128) ||
            decide (128 ≤ l.toInt + e.2.toInt + (c.toNat : Int)))) ∧
      (∃ q, exec (.aCmp op) s = .next (s.audioEnded (.aCmp op) false { u with psw := q }) ∧
        NzAfter u.psw q (zext (l - r)) .w8 [0] ∧ q.getLsbD 0 = decide (r.toNat ≤ l.toNat)) ∧
      (∀ e ∈ [(Instr.aAnd op, l &&& r), (Instr.aOr op, l ||| r), (Instr.aEor op, l ^^^ r)],
        ∃ q, exec e.1 s = .next (s.audioEnded e.1 false { (s.audioOn u (aluStore dst e.2)).2 with psw := q }) ∧
          NzAfter (s.audioOn u (aluStore dst e.2)).2.psw q (zext e.2) .w8 [])) ∧
    (∀ r u, s.audio (asrc src) = (r, u) →
      ∀ e ∈ [(Instr.aCmpX src, u.x), (Instr.aCmpY src, u.y)],
        ∃ q, exec e.1 s = .next (s.audioEnded e.1 false { u with psw := q }) ∧
          NzAfter u.psw q (zext (e.2 - r)) .w8 [0] ∧ q.getLsbD 0 = decide (r.toNat ≤ e.2.toNat))

/-- The audio read-modify-write operations, on registers and on memory, with the memory read once and written once at the same address: INC,
DEC, the shifts and rotates, and XCN; n and z follow the result and c is the bit shifted out (R652, R666 to R672). -/
def Obligations.AudioModify : Prop :=
  ∀ (s : State) (m : AMode),
    let table : Bool → List ((ARmw → Instr) × (Byte → Byte × Bool)) := fun c => [
      (Instr.aInc, fun v => (v + 1, c)), (Instr.aDec, fun v => (v - 1, c)),
      (Instr.aAsl, fun v => (v <<< 1, v.getLsbD 7)), (Instr.aLsr, fun v => (v >>> 1, v.getLsbD 0)),
      (Instr.aRol, fun v => ((v <<< 1) ||| (if c then 1 else 0), v.getLsbD 7)),
      (Instr.aRor, fun v => ((v >>> 1) ||| (if c then 0x80 else 0), v.getLsbD 0))]
    let u := s.apu
    (∀ e ∈ table (u.psw.getLsbD 0), ∀ o ∈ [(ARmw.a, u.a, fun (r q : Byte) => { u with a := r, psw := q }),
        (ARmw.x, u.x, fun r q => { u with x := r, psw := q }), (ARmw.y, u.y, fun r q => { u with y := r, psw := q })],
      ∃ q, exec (e.1 o.1) s = .next (s.audioEnded (e.1 o.1) false (o.2.2 (e.2 o.2.1).1 q)) ∧
        NzAfter u.psw q (zext (e.2 o.2.1).1) .w8 [0] ∧ q.getLsbD 0 = (e.2 o.2.1).2) ∧
    (∀ a t v r, s.audio (aaddr m) = (a, t) → s.audioOn t (aread a) = (v, r) →
      ∀ e ∈ table (r.psw.getLsbD 0), ∃ q,
        exec (e.1 (.mem m)) s = .next (s.audioEnded (e.1 (.mem m)) false
          (s.audioOn { r with psw := q } (awrite a (e.2 v).1)).2) ∧
        NzAfter r.psw q (zext (e.2 v).1) .w8 [0] ∧ q.getLsbD 0 = (e.2 v).2) ∧
    (∃ q r, exec .aXcn s = .next (s.audioEnded .aXcn false { u with a := r, psw := q }) ∧
      r.toNat = u.a.toNat / 16 + u.a.toNat % 16 * 16 ∧ NzAfter u.psw q (zext r) .w8 [])

/-- The audio 16-bit operations: n and z from 16 bits; ADDW and SUBW set c, the signed overflow v and the half carry out of bit 11; CMPW
leaves v and h; the word's high byte lies one further in the direct page, wrapping in it (R651, R673 to R678). -/
def Obligations.AudioWords : Prop :=
  ∀ (s : State) (o : Byte) (w : Word) (u : Apu), s.audio (wordRead o) = (w, u) →
    let ya := mkWord u.y u.a
    (∀ l h, s.apu.byte? (s.apu.page + zext o) = some l → s.apu.byte? (s.apu.page + zext (o + 1)) = some h →
      w = mkWord h l ∧ u = s.apu) ∧
    (∃ q, exec (.aMovwLd o) s = .next (s.audioEnded (.aMovwLd o) false { u with a := lo w, y := hi w, psw := q }) ∧
      NzAfter u.psw q w .w16 []) ∧
    exec (.aMovwSt o) s = .next (s.audioEnded (.aMovwSt o) false (s.audio (wordWrite o (mkWord s.apu.y s.apu.a))).2) ∧
    (∀ e ∈ [(Instr.aIncw o, w + 1), (Instr.aDecw o, w - 1)],
      ∃ q, exec e.1 s = .next (s.audioEnded e.1 false { (s.audioOn u (wordWrite o e.2)).2 with psw := q }) ∧
        NzAfter (s.audioOn u (wordWrite o e.2)).2.psw q e.2 .w16 []) ∧
    (∃ q r, exec (.aAddw o) s = .next (s.audioEnded (.aAddw o) false { u with a := lo r, y := hi r, psw := q }) ∧
      r = ya + w ∧ NzAfter u.psw q r .w16 [0, 3, 6] ∧ q.getLsbD 0 = decide (65536 ≤ ya.toNat + w.toNat) ∧
      q.getLsbD 3 = decide (4096 ≤ ya.toNat % 4096 + w.toNat % 4096) ∧
      q.getLsbD 6 = Width.w16.outOfRange (ya.toInt + w.toInt)) ∧
    (∃ q r, exec (.aSubw o) s = .next (s.audioEnded (.aSubw o) false { u with a := lo r, y := hi r, psw := q }) ∧
      r = ya - w ∧ NzAfter u.psw q r .w16 [0, 3, 6] ∧ q.getLsbD 0 = decide (w.toNat ≤ ya.toNat) ∧
      q.getLsbD 3 = decide (w.toNat % 4096 ≤ ya.toNat % 4096) ∧
      q.getLsbD 6 = Width.w16.outOfRange (ya.toInt - w.toInt)) ∧
    (∃ q, exec (.aCmpw o) s = .next (s.audioEnded (.aCmpw o) false { u with psw := q }) ∧
      NzAfter u.psw q (ya - w) .w16 [0] ∧ q.getLsbD 0 = decide (w.toNat ≤ ya.toNat))

/-- MUL, DIV, DAA and DAS of the audio CPU: the 16-bit product with flags from its high byte; the quotient and remainder, exact where the
quotient fits, and the other branch of R680 where y is at least 2x; the two decimal adjustments (R679 to R682). -/
def Obligations.AudioMultiplyDivide : Prop :=
  ∀ (s : State),
    let u := s.apu
    let ya := u.y.toNat * 256 + u.a.toNat
    (∃ q a y, exec .aMul s = .next (s.audioEnded .aMul false { u with a := a, y := y, psw := q }) ∧
      y.toNat * 256 + a.toNat = u.y.toNat * u.a.toNat ∧ NzAfter u.psw q (zext y) .w8 []) ∧
    (∃ q a y, exec .aDiv s = .next (s.audioEnded .aDiv false { u with a := a, y := y, psw := q }) ∧
      NzAfter u.psw q (zext a) .w8 [3, 6] ∧
      q.getLsbD 3 = decide (u.x.toNat % 16 ≤ u.y.toNat % 16) ∧ q.getLsbD 6 = decide (u.x.toNat ≤ u.y.toNat) ∧
      (u.y.toNat < u.x.toNat → a.toNat * u.x.toNat + y.toNat = ya ∧ y.toNat < u.x.toNat) ∧
      (u.y.toNat < 2 * u.x.toNat → a.toNat = ya / u.x.toNat % 256 ∧ y.toNat = ya % u.x.toNat) ∧
      (2 * u.x.toNat ≤ u.y.toNat →
        a.toNat = (255 + 256 - (ya - 512 * u.x.toNat) / (256 - u.x.toNat)) % 256 ∧
        y.toNat = (u.x.toNat + (ya - 512 * u.x.toNat) % (256 - u.x.toNat)) % 256)) ∧
    (∃ q a1 a2, exec .aDaa s = .next (s.audioEnded .aDaa false { u with a := a2, psw := q }) ∧
      a1 = (if u.psw.getLsbD 0 = true ∨ 0x99 < u.a.toNat then u.a + 0x60 else u.a) ∧
      a2 = (if u.psw.getLsbD 3 = true ∨ 9 < a1.toNat % 16 then a1 + 0x06 else a1) ∧
      q.getLsbD 0 = decide (u.psw.getLsbD 0 = true ∨ 0x99 < u.a.toNat) ∧ NzAfter u.psw q (zext a2) .w8 [0]) ∧
    (∃ q a1 a2, exec .aDas s = .next (s.audioEnded .aDas false { u with a := a2, psw := q }) ∧
      a1 = (if u.psw.getLsbD 0 = false ∨ 0x99 < u.a.toNat then u.a - 0x60 else u.a) ∧
      a2 = (if u.psw.getLsbD 3 = false ∨ 9 < a1.toNat % 16 then a1 - 0x06 else a1) ∧
      q.getLsbD 0 = decide (u.psw.getLsbD 0 = true ∧ ¬0x99 < u.a.toNat) ∧ NzAfter u.psw q (zext a2) .w8 [0])

/-- The audio branches: taken exactly when their condition holds, to pc_next plus the signed offset; no flag changes; CBNE compares the
accumulator with memory, DBNZ counts memory or y down, BBS and BBC test one bit (R720 to R733). -/
def Obligations.AudioBranches : Prop :=
  ∀ (s : State) (r d : Byte) (b : BitVec 3),
    let u := s.apu
    let jump := fun (v : Apu) (c : Bool) => { v with pc := if c then v.pc + r.signExtend 16 else v.pc }
    (∀ e ∈ [(Instr.aBra r, true), (Instr.aBeq r, u.psw.getLsbD 1), (Instr.aBne r, !u.psw.getLsbD 1),
        (Instr.aBcs r, u.psw.getLsbD 0), (Instr.aBcc r, !u.psw.getLsbD 0), (Instr.aBvs r, u.psw.getLsbD 6),
        (Instr.aBvc r, !u.psw.getLsbD 6), (Instr.aBmi r, u.psw.getLsbD 7), (Instr.aBpl r, !u.psw.getLsbD 7)],
      exec e.1 s = .next (s.audioEnded e.1 e.2 (jump u e.2))) ∧
    (∀ v t, s.audio (aread (u.page + zext d)) = (v, t) →
      exec (.aBbs b d r) s = .next (s.audioEnded (.aBbs b d r) (v.getLsbD b.toNat) (jump t (v.getLsbD b.toNat))) ∧
      exec (.aBbc b d r) s = .next (s.audioEnded (.aBbc b d r) (!v.getLsbD b.toNat) (jump t (!v.getLsbD b.toNat))) ∧
      exec (.aCbne d r) s = .next (s.audioEnded (.aCbne d r) (decide (t.a ≠ v)) (jump t (decide (t.a ≠ v)))) ∧
      exec (.aDbnz d r) s = .next (s.audioEnded (.aDbnz d r) (decide (v - 1 ≠ 0))
        (jump (s.audioOn t (awrite (u.page + zext d) (v - 1))).2 (decide (v - 1 ≠ 0))))) ∧
    (∀ v t, s.audio (aread (u.page + zext (d + u.x))) = (v, t) →
      exec (.aCbneX d r) s = .next (s.audioEnded (.aCbneX d r) (decide (t.a ≠ v)) (jump t (decide (t.a ≠ v))))) ∧
    exec (.aDbnzY r) s = .next (s.audioEnded (.aDbnzY r) (decide (u.y - 1 ≠ 0))
      (jump { u with y := u.y - 1 } (decide (u.y - 1 ≠ 0))))

/-- The audio jumps, calls, returns and stack instructions: the stack is page 1 whatever p is, a call pushes pc_next high byte first, BRK also
pushes psw, sets b and clears i, and its vector and TCALL's are read through the bus (R734 to R742). -/
def Obligations.AudioControl : Prop :=
  ∀ (s : State) (a : Word) (k : Byte) (n : BitVec 4),
    let u := s.apu
    let called := (u.pushed (hi u.pc)).pushed (lo u.pc)
    let pulled := fun (v : Apu) => v.ramByte v.pullAt
    let pop := fun (v : Apu) => { v with sp := v.sp + 1 }
    exec (.aJmp a) s = .next (s.audioEnded (.aJmp a) false { u with pc := a }) ∧
    (∀ t v, s.audio (aword (a + zext u.x)) = (t, v) →
      exec (.aJmpInd a) s = .next (s.audioEnded (.aJmpInd a) false { v with pc := t })) ∧
    exec (.aCall a) s = .next (s.audioEnded (.aCall a) false { called with pc := a }) ∧
    exec (.aPcall k) s = .next (s.audioEnded (.aPcall k) false { called with pc := mkWord 0xFF k }) ∧
    (∀ t, t = 0xFFDE - 2 * n.setWidth 16 →
      exec (.aTcall n) s = .next (s.audioEnded (.aTcall n) false
        { called with pc := mkWord (called.ramByte (t + 1)) (called.ramByte t) })) ∧
    (∃ q, exec .aBrk s = .next (s.audioEnded .aBrk false
        { called.pushed u.psw with
          psw := q, pc := mkWord ((called.pushed u.psw).ramByte 0xFFDF) ((called.pushed u.psw).ramByte 0xFFDE) }) ∧
      q.getLsbD 4 = true ∧ q.getLsbD 2 = false ∧ ∀ i, i ≠ 4 → i ≠ 2 → q.getLsbD i = u.psw.getLsbD i) ∧
    exec .aRet s = .next (s.audioEnded .aRet false { u with sp := u.sp + 2, pc := mkWord (pulled (pop u)) (pulled u) }) ∧
    exec .aReti s = .next (s.audioEnded .aReti false
      { u with sp := u.sp + 3, psw := pulled u, pc := mkWord (pulled (pop (pop u))) (pulled (pop u)) }) ∧
    (∀ e ∈ [(AStackReg.a, u.a), (.x, u.x), (.y, u.y), (.psw, u.psw)],
      exec (.aPush e.1) s = .next (s.audioEnded (.aPush e.1) false (u.pushed e.2))) ∧
    exec (.aPop .a) s = .next (s.audioEnded (.aPop .a) false { u with sp := u.sp + 1, a := pulled u }) ∧
    exec (.aPop .x) s = .next (s.audioEnded (.aPop .x) false { u with sp := u.sp + 1, x := pulled u }) ∧
    exec (.aPop .y) s = .next (s.audioEnded (.aPop .y) false { u with sp := u.sp + 1, y := pulled u }) ∧
    exec (.aPop .psw) s = .next (s.audioEnded (.aPop .psw) false { u with sp := u.sp + 1, psw := pulled u })

/-- The audio bit and flag instructions: one bit of memory set, cleared, complemented or moved; c combined with a bit of memory; TSET1 and
TCLR1 set n and z from a minus memory; the flag instructions change only their flags (R743 to R759). -/
def Obligations.AudioBitsAndFlags : Prop :=
  ∀ (s : State) (b : BitVec 3) (d : Byte) (a : Word) (m : BitVec 13) (neg : Bool),
    let u := s.apu
    (∀ v t, s.audio (aread (u.page + zext d)) = (v, t) → ∀ r : Byte,
      (r = v ||| (1#8 <<< b.toNat) → exec (.aSet1 b d) s =
        .next (s.audioEnded (.aSet1 b d) false (s.audioOn t (awrite (u.page + zext d) r)).2)) ∧
      (r = v &&& ~~~(1#8 <<< b.toNat) → exec (.aClr1 b d) s =
        .next (s.audioEnded (.aClr1 b d) false (s.audioOn t (awrite (u.page + zext d) r)).2))) ∧
    (∀ v t, s.audio (aread a) = (v, t) → ∀ e ∈ [(Instr.aTset1 a, v ||| t.a), (Instr.aTclr1 a, v &&& ~~~t.a)],
      ∃ q, exec e.1 s = .next (s.audioEnded e.1 false (s.audioOn { t with psw := q } (awrite a e.2)).2) ∧
        NzAfter t.psw q (zext (t.a - v)) .w8 []) ∧
    (∀ v t, s.audio (aread (m.setWidth 16)) = (v, t) →
      let bit := v.getLsbD b.toNat
      let c := t.psw.getLsbD 0
      (∀ e ∈ [(Instr.aAnd1 neg m b, c && (bit ^^ neg)), (Instr.aOr1 neg m b, c || (bit ^^ neg)), (Instr.aEor1 m b, c ^^ bit),
          (Instr.aMov1Ld m b, bit)],
        ∃ q : Byte, exec e.1 s = .next (s.audioEnded e.1 false { t with psw := q }) ∧ q.getLsbD 0 = e.2 ∧
          ∀ i, i ≠ 0 → q.getLsbD i = t.psw.getLsbD i) ∧
      exec (.aNot1 m b) s = .next (s.audioEnded (.aNot1 m b) false
        (s.audioOn t (awrite (m.setWidth 16) (v ^^^ (1#8 <<< b.toNat)))).2) ∧
      exec (.aMov1St m b) s = .next (s.audioEnded (.aMov1St m b) false
        (s.audioOn t (awrite (m.setWidth 16) ((v &&& ~~~(1#8 <<< b.toNat)) ||| (if c then 1#8 <<< b.toNat else 0)))).2)) ∧
    (∀ e ∈ [(Instr.aClrc, [0], false), (Instr.aSetc, [0], true), (Instr.aNotc, [0], !u.psw.getLsbD 0),
        (Instr.aClrv, [3, 6], false), (Instr.aClrp, [5], false), (Instr.aSetp, [5], true), (Instr.aEi, [2], true),
        (Instr.aDi, [2], false)],
      ∃ q : Byte, exec e.1 s = .next (s.audioEnded e.1 false { u with psw := q }) ∧ (∀ i ∈ e.2.1, q.getLsbD i = e.2.2) ∧
        ∀ i, i ∉ e.2.1 → q.getLsbD i = u.psw.getLsbD i) ∧
    exec .aNop s = .next (s.audioEnded .aNop false u) ∧
    exec .aSleep s = .next (s.audioEnded .aSleep false { u with halted := true }) ∧
    exec .aStop s = .next (s.audioEnded .aStop false { u with halted := true })

/-- The audio I/O registers: a timer counts elapsed audio cycles divided by its prescale and target, modulo 16, and keeps the remainder; a
read of its counter brings it up to date, answers it and clears it, and a write of its target brings it up to date first; enabling clears it
and disabling does not; CONTROL clears input ports and maps the boot ROM; DSPADDR, the first 128 DSP registers, TEST and AUXIO store, the
ports hold what the other side wrote, the write-only registers read as a drawn byte, and every write reaches the RAM byte below
(R985 to R989, R995). -/
def Obligations.AudioTimers : Prop :=
  ∀ (s : State) (pre now : Nat) (t : Timer) (v : Byte), 0 < pre →
    let u := s.apu
    let t0 := u.timer0.update s.cfg.prescale0 u.acycles
    let t1 := u.timer1.update s.cfg.prescale1 u.acycles
    let t2 := u.timer2.update s.cfg.prescale2 u.acycles
    (t.en = true → t.last ≤ now →
      let d := pre * (if t.target = 0 then 256 else t.target.toNat)
      let k := t.acc + (now - t.last)
      (t.update pre now).out.toNat = (t.out.toNat + k / d) % 16 ∧ (t.update pre now).acc = k % d ∧
      (t.update pre now).acc < d ∧ (t.update pre now).last = now ∧
      (t.update pre now).en = true ∧ (t.update pre now).target = t.target) ∧
    (t.en = false → t.update pre now = { t with last := now }) ∧
    (t.en = false → t.control true = { t with out := 0, acc := 0, en := true }) ∧
    (t.control false = { t with en := false }) ∧
    (t.en = true → t.control true = t) ∧
    (∀ e ∈ [((0x00FD : Word), t0, { u with timer0 := { t0 with out := 0 } }),
        (0x00FE, t1, { u with timer1 := { t1 with out := 0 } }), (0x00FF, t2, { u with timer2 := { t2 with out := 0 } })],
      ∃ r, s.audio (aread e.1) = (r, e.2.2) ∧ r.toNat = e.2.1.out.toNat ∧ s.audioOn e.2.2 (aread e.1) = (0, e.2.2)) ∧
    (∀ e ∈ [((0x00FA : Word), { u with timer0 := { t0 with target := v } }),
        (0x00FB, { u with timer1 := { t1 with target := v } }), (0x00FC, { u with timer2 := { t2 with target := v } }),
        (0x00F0, { u with test := v }), (0x00F2, { u with dspAddr := v }),
        (0x00F3, if u.dspAddr.toNat < 0x80 then { u with dspReg := Cells.write 0 u.dspAddr.toNat v u.dspReg } else u),
        (0x00F8, { u with aux0 := v }), (0x00F9, { u with aux1 := v }),
        (0x00FD, u), (0x00FE, u), (0x00FF, u)],
      s.audio (awrite e.1 v) = ((), e.2.putRam e.1 v)) ∧
    (∀ e ∈ [((0x00F2 : Word), u.dspAddr), (0x00F8, u.aux0), (0x00F9, u.aux1)], s.audio (aread e.1) = (e.2, u)) ∧
    (∀ a ∈ [(0x00F0 : Word), 0x00F1, 0x00F3, 0x00FA, 0x00FB, 0x00FC], ∃ r n, s.audio (aread a) = (r, { u with draws := n })) ∧
    s.audio (awrite 0x00F1 v) = ((), { u with
      timer0 := t0.control (v.getLsbD 0)
      timer1 := t1.control (v.getLsbD 1)
      timer2 := t2.control (v.getLsbD 2)
      pin := ⟨if v.getLsbD 4 then 0 else u.pin.q0, if v.getLsbD 4 then 0 else u.pin.q1,
        if v.getLsbD 5 then 0 else u.pin.q2, if v.getLsbD 5 then 0 else u.pin.q3⟩
      iplOn := v.getLsbD 7
      aram := Cells.write 0 0xF1 v u.aram }) ∧
    (∀ n, n < 4 → s.audio (aread (0x00F4 + BitVec.ofNat 16 n)) = (u.pin.get n, u) ∧
      (s.audio (awrite (0x00F4 + BitVec.ofNat 16 n) v)).2 =
        { u.putRam (0x00F4 + BitVec.ofNat 16 n) v with pout := u.pout.on n (fun _ => v) })
end

