-- ==== Sys2Proof/Laws/Cells.lean ====
section
/-!
SUPPORT. The laws of sparse arrays: reading after a write, other keys unchanged, and the canonical form kept.
-/

namespace Sys2Proof.Laws

open Sys2Proof

variable {α : Type} [DecidableEq α]

theorem wfFrom_mono {d : α} {n low low' : Nat} (h : low' ≤ low) {c : Cells α} (hc : Cells.wfFrom d n low c = true) :
    Cells.wfFrom d n low' c = true := by
  cases c with
  | nil => rfl
  | cons p t =>
    simp only [Cells.wfFrom, Bool.and_eq_true, decide_eq_true_eq] at hc ⊢
    exact ⟨⟨⟨by omega, hc.1.1.2⟩, hc.1.2⟩, hc.2⟩

/-- A key below every listed one reads as the default. -/
theorem read_below {d : α} {n low k : Nat} (hk : k < low) {c : Cells α} (hc : Cells.wfFrom d n low c = true) :
    Cells.read d k c = d := by
  induction c generalizing low with
  | nil => rfl
  | cons p t ih =>
    simp only [Cells.wfFrom, Bool.and_eq_true, decide_eq_true_eq] at hc
    simp only [Cells.read]
    rw [if_neg (by omega)]
    exact ih (by omega) hc.2

theorem read_write_other {d v : α} {k j : Nat} (hj : j ≠ k) (c : Cells α) :
    Cells.read d j (Cells.write d k v c) = Cells.read d j c := by
  induction c with
  | nil =>
    simp only [Cells.write]
    split <;> simp [Cells.read, hj.symm]
  | cons p t ih =>
    obtain ⟨k', v'⟩ := p
    simp only [Cells.write]
    split_ifs <;> simp only [Cells.read, ih] <;> split_ifs <;> first | rfl | omega

theorem read_write_same_from {d v : α} {n low k : Nat} {c : Cells α} (hc : Cells.wfFrom d n low c = true) :
    Cells.read d k (Cells.write d k v c) = v := by
  induction c generalizing low with
  | nil =>
    simp only [Cells.write]
    split_ifs with h
    · exact h.symm
    · simp [Cells.read]
  | cons p t ih =>
    obtain ⟨k', v'⟩ := p
    simp only [Cells.wfFrom, Bool.and_eq_true, decide_eq_true_eq] at hc
    simp only [Cells.write]
    split_ifs with h1 h2 h3 h4
    · have : Cells.read d k t = d := read_below (low := k' + 1) (by omega) hc.2
      simp [Cells.read, this, h2]; omega
    · simp [Cells.read]
    · subst h3; rw [read_below (Nat.lt_succ_self _) hc.2]; exact h4.symm
    · simp [Cells.read]
    · simp only [Cells.read]
      rw [if_neg (Ne.symm h3)]
      exact ih hc.2

/-- A read after a write to the same key gives the value written. -/
theorem read_write_same {d v : α} {n k : Nat} {c : Cells α} (hc : Cells.wf d n c = true) :
    Cells.read d k (Cells.write d k v c) = v := read_write_same_from hc

theorem write_wfFrom {d v : α} {n low k : Nat} (hl : low ≤ k) (hk : k < n) {c : Cells α}
    (hc : Cells.wfFrom d n low c = true) : Cells.wfFrom d n low (Cells.write d k v c) = true := by
  induction c generalizing low with
  | nil =>
    simp only [Cells.write]
    split_ifs with h
    · rfl
    · simp [Cells.wfFrom, hl, hk, h]
  | cons p t ih =>
    obtain ⟨k', v'⟩ := p
    have hc' := hc
    simp only [Cells.wfFrom, Bool.and_eq_true, decide_eq_true_eq] at hc
    simp only [Cells.write]
    split_ifs with h1 h2 h3 h4
    · exact hc'
    · simp only [Cells.wfFrom, Bool.and_eq_true, decide_eq_true_eq]
      exact ⟨⟨⟨hl, hk⟩, h2⟩, ⟨⟨by omega, hc.1.1.2⟩, hc.1.2⟩, hc.2⟩
    · exact wfFrom_mono (by omega) hc.2
    · simp only [Cells.wfFrom, Bool.and_eq_true, decide_eq_true_eq]
      exact ⟨⟨⟨hl, hk⟩, h4⟩, h3 ▸ hc.2⟩
    · simp only [Cells.wfFrom, Bool.and_eq_true, decide_eq_true_eq]
      exact ⟨hc.1, ih (by omega) hc.2⟩

/-- A write inside the array keeps the canonical form. -/
theorem write_wf {d v : α} {n k : Nat} (hk : k < n) {c : Cells α} (hc : Cells.wf d n c = true) :
    Cells.wf d n (Cells.write d k v c) = true := write_wfFrom (Nat.zero_le k) hk hc

theorem mem_write {d v : α} {k : Nat} {p : Nat × α} {c : Cells α} (h : p ∈ Cells.write d k v c) : p = (k, v) ∨ p ∈ c := by
  induction c with
  | nil =>
    simp only [Cells.write] at h
    split_ifs at h <;> simp_all
  | cons q t ih =>
    obtain ⟨k', v'⟩ := q
    simp only [Cells.write] at h
    split_ifs at h <;> simp_all <;> tauto

/-- Two arrays in canonical form that read alike are the same list. -/
theorem wf_ext {d : α} {n low : Nat} {c c' : Cells α} (hc : Cells.wfFrom d n low c = true)
    (hc' : Cells.wfFrom d n low c' = true) (h : ∀ k, Cells.read d k c = Cells.read d k c') : c = c' := by
  induction c generalizing c' low with
  | nil =>
    cases c' with
    | nil => rfl
    | cons p t =>
      simp only [Cells.wfFrom, Bool.and_eq_true, decide_eq_true_eq] at hc'
      have := h p.1
      simp [Cells.read] at this
      exact absurd this.symm hc'.1.2
  | cons p t ih =>
    cases c' with
    | nil =>
      simp only [Cells.wfFrom, Bool.and_eq_true, decide_eq_true_eq] at hc
      have := h p.1
      simp [Cells.read] at this
      exact absurd this hc.1.2
    | cons q t' =>
      obtain ⟨k, v⟩ := p
      obtain ⟨k', v'⟩ := q
      simp only [Cells.wfFrom, Bool.and_eq_true, decide_eq_true_eq] at hc hc'
      have hk : k = k' := by
        rcases Nat.lt_trichotomy k k' with hlt | heq | hgt
        · have h1 := h k
          simp only [Cells.read] at h1
          rw [if_true, if_neg (by omega), read_below (low := k' + 1) (by omega) hc'.2] at h1
          exact absurd h1 hc.1.2
        · exact heq
        · have h1 := h k'
          simp only [Cells.read] at h1
          rw [if_true, if_neg (by omega), read_below (low := k + 1) (by omega) hc.2] at h1
          exact absurd h1.symm hc'.1.2
      subst hk
      have hv : v = v' := by simpa [Cells.read] using h k
      subst hv
      congr 1
      refine ih hc.2 hc'.2 fun j => ?_
      by_cases hj : j = k
      · subst hj
        rw [read_below (Nat.lt_succ_self _) hc.2, read_below (Nat.lt_succ_self _) hc'.2]
      · have := h j
        simpa [Cells.read, Ne.symm hj] using this

end Sys2Proof.Laws
end

