-- ==== Sys2Proof/Laws/AudioMemory.lean ====
section
/-!
SUPPORT. Every operation of the audio side keeps audio RAM and the DSP registers in canonical form.
-/

namespace Sys2Proof.Laws

open Sys2Proof Sys2Proof.Machine

variable {α β : Type}

/-- The audio memories are in canonical form. -/
def AudioOk (u : Apu) : Prop := Cells.wf 0 0x10000 u.aram = true ∧ Cells.wf 0 0x80 u.dspReg = true

/-- Every run of `m` keeps the audio memories' form. -/
def AKeeps (m : A α) : Prop := ∀ cfg u, AudioOk u → AudioOk ((m.run cfg).run u).2

theorem AKeeps.pure (a : α) : AKeeps (Pure.pure a : A α) := fun _ _ h => h

theorem AKeeps.bind {x : A α} {f : α → A β} (hx : AKeeps x) (hf : ∀ a, AKeeps (f a)) : AKeeps (x >>= f) :=
  fun cfg u h => hf _ cfg _ (hx cfg u h)

theorem AKeeps.get_bind {f : Apu → A β} (hf : ∀ v, AudioOk v → AKeeps (f v)) : AKeeps (get >>= f) :=
  fun cfg u h => hf u h cfg u h

theorem AKeeps.read_bind {f : Config → A β} (hf : ∀ c, AKeeps (f c)) : AKeeps (read >>= f) :=
  fun cfg u h => hf cfg cfg u h

theorem AKeeps.get : AKeeps (MonadState.get : A Apu) := fun _ _ h => h

theorem AKeeps.set {v : Apu} (h : AudioOk v) : AKeeps (MonadStateOf.set v : A Unit) := fun _ _ _ => h

theorem AKeeps.modify {f : Apu → Apu} (h : ∀ u, AudioOk u → AudioOk (f u)) : AKeeps (modify f : A Unit) :=
  fun _ u hu => h u hu

theorem AKeeps.ite {c : Prop} [Decidable c] {x y : A α} (hx : c → AKeeps x) (hy : ¬c → AKeeps y) :
    AKeeps (if c then x else y) := by
  split
  · exact hx ‹_›
  · exact hy ‹_›

theorem adraw_keeps : AKeeps adraw := fun _ _ h => h

theorem onTimer_audioOk {u : Apu} (t : Nat) (f : Timer → Timer) (h : AudioOk u) : AudioOk (u.onTimer t f) := by
  unfold Apu.onTimer
  split <;> exact h

theorem timerUpdate_keeps (t : Nat) : AKeeps (timerUpdate t) :=
  AKeeps.read_bind fun _ => AKeeps.modify fun _ h => onTimer_audioOk _ _ h

theorem timerRead_keeps (t : Nat) : AKeeps (timerRead t) :=
  AKeeps.bind (timerUpdate_keeps t) fun _ => AKeeps.get_bind fun _ h =>
    AKeeps.bind (AKeeps.set (onTimer_audioOk _ _ h)) fun _ => AKeeps.pure _

theorem controlWrite_keeps (v : Byte) : AKeeps (controlWrite v) :=
  AKeeps.bind (timerUpdate_keeps 0) fun _ => AKeeps.bind (timerUpdate_keeps 1) fun _ =>
    AKeeps.bind (timerUpdate_keeps 2) fun _ => AKeeps.modify fun _ h => h

theorem targetWrite_keeps (t : Nat) (v : Byte) : AKeeps (targetWrite t v) :=
  AKeeps.bind (timerUpdate_keeps t) fun _ => AKeeps.modify fun _ h => onTimer_audioOk _ _ h

theorem ioRegRead_keeps (a : Word) : AKeeps (ioRegRead a) := by
  unfold ioRegRead
  split <;> first
    | with_reducible exact adraw_keeps
    | with_reducible exact timerRead_keeps _
    | exact AKeeps.get_bind fun _ _ => AKeeps.pure _

theorem ioRegWrite_keeps (a : Word) (v : Byte) : AKeeps (ioRegWrite a v) := by
  unfold ioRegWrite
  split
  case h_4 =>
    refine AKeeps.modify fun u h => ?_
    split_ifs with hk
    · exact ⟨h.1, write_wf hk h.2⟩
    · exact h
  all_goals first
    | with_reducible exact AKeeps.pure _
    | with_reducible exact controlWrite_keeps _
    | with_reducible exact targetWrite_keeps _ _
    | exact AKeeps.modify fun _ h => h

/-- An audio read keeps the form. -/
theorem aread_keeps (a : Word) : AKeeps (aread a) := by
  unfold aread
  exact AKeeps.ite (fun _ => ioRegRead_keeps a) fun _ => AKeeps.get_bind fun _ _ => AKeeps.pure _

/-- An audio write keeps the form. -/
theorem awrite_keeps (a : Word) (v : Byte) : AKeeps (awrite a v) := by
  intro cfg u h
  have hr := ioRegWrite_keeps a v cfg u h
  by_cases hio : isIoReg a = true
  · have he : ((awrite a v).run cfg).run u =
        ((), { (((ioRegWrite a v).run cfg).run u).2 with
          aram := Cells.write 0 a.toNat v (((ioRegWrite a v).run cfg).run u).2.aram }) := by
      simp only [awrite, hio, if_true]
      rfl
    rw [he]
    exact ⟨write_wf a.isLt hr.1, hr.2⟩
  · have he : ((awrite a v).run cfg).run u = ((), { u with aram := Cells.write 0 a.toNat v u.aram }) := by
      simp only [awrite, hio]
      rfl
    rw [he]
    exact ⟨write_wf a.isLt h.1, h.2⟩

theorem afetch_keeps : AKeeps afetch :=
  AKeeps.get_bind fun _ h => AKeeps.bind (AKeeps.set h) fun _ => aread_keeps _

theorem afetchN_keeps (n : Nat) : AKeeps (afetchN n) := by
  induction n with
  | zero => exact AKeeps.pure _
  | succ n ih => exact AKeeps.bind afetch_keeps fun _ => AKeeps.bind ih fun _ => AKeeps.pure _

/-! ## Operands and flags -/

theorem aflag_keeps (i : Nat) : AKeeps (aflag i) := AKeeps.get_bind fun _ _ => AKeeps.pure _

theorem setAflag_keeps (i : Nat) (b : Bool) : AKeeps (setAflag i b) := AKeeps.modify fun _ h => h

theorem setnz_keeps (v : Byte) : AKeeps (setnz v) :=
  AKeeps.bind (setAflag_keeps _ _) fun _ => setAflag_keeps _ _

theorem setnz16_keeps (v : Word) : AKeeps (setnz16 v) :=
  AKeeps.bind (setAflag_keeps _ _) fun _ => setAflag_keeps _ _

theorem aAdc8_keeps (l r : Byte) : AKeeps (aAdc8 l r) :=
  AKeeps.bind (aflag_keeps _) fun _ => AKeeps.bind (setAflag_keeps _ _) fun _ => AKeeps.bind (setAflag_keeps _ _) fun _ =>
    AKeeps.bind (setAflag_keeps _ _) fun _ => AKeeps.bind (setnz_keeps _) fun _ => AKeeps.pure _

theorem aSbc8_keeps (l r : Byte) : AKeeps (aSbc8 l r) := aAdc8_keeps _ _

theorem aCmp8_keeps (l r : Byte) : AKeeps (aCmp8 l r) :=
  AKeeps.bind (setAflag_keeps _ _) fun _ => setnz_keeps _

theorem dpAddr_keeps (o : Byte) : AKeeps (dpAddr o) := AKeeps.get_bind fun _ _ => AKeeps.pure _

theorem dpPtr_keeps (o : Byte) : AKeeps (dpPtr o) :=
  AKeeps.bind (dpAddr_keeps _) fun _ => AKeeps.bind (aread_keeps _) fun _ => AKeeps.bind (dpAddr_keeps _) fun _ =>
    AKeeps.bind (aread_keeps _) fun _ => AKeeps.pure _

theorem aaddr_keeps (m : AMode) : AKeeps (aaddr m) := by
  cases m with
  | d o => exact dpAddr_keeps o
  | dx o => exact AKeeps.get_bind fun _ _ => dpAddr_keeps _
  | dy o => exact AKeeps.get_bind fun _ _ => dpAddr_keeps _
  | idx o => exact AKeeps.get_bind fun _ _ => dpPtr_keeps _
  | idy o => exact AKeeps.bind (dpPtr_keeps _) fun _ => AKeeps.get_bind fun _ _ => AKeeps.pure _
  | abs a => exact AKeeps.pure _
  | absx a => exact AKeeps.get_bind fun _ _ => AKeeps.pure _
  | absy a => exact AKeeps.get_bind fun _ _ => AKeeps.pure _
  | ix => exact AKeeps.get_bind fun _ _ => dpAddr_keeps _

theorem asrc_keeps (s : ASrc) : AKeeps (asrc s) := by
  cases s with
  | imm i => exact AKeeps.pure _
  | mem m => exact AKeeps.bind (aaddr_keeps m) fun _ => aread_keeps _

theorem wordRead_keeps (o : Byte) : AKeeps (wordRead o) := dpPtr_keeps o

theorem wordWrite_keeps (o : Byte) (v : Word) : AKeeps (wordWrite o v) :=
  AKeeps.bind (dpAddr_keeps _) fun _ => AKeeps.bind (awrite_keeps _ _) fun _ => AKeeps.bind (dpAddr_keeps _) fun _ =>
    awrite_keeps _ _

theorem aluOperands_keeps (o : AAlu) : AKeeps (aluOperands o) := by
  cases o with
  | acc s => exact AKeeps.bind (asrc_keeps s) fun _ => AKeeps.get_bind fun _ _ => AKeeps.pure _
  | dd src dst =>
    exact AKeeps.bind (dpAddr_keeps _) fun _ => AKeeps.bind (aread_keeps _) fun _ => AKeeps.bind (dpAddr_keeps _) fun _ =>
      AKeeps.bind (aread_keeps _) fun _ => AKeeps.pure _
  | dImm i d => exact AKeeps.bind (dpAddr_keeps _) fun _ => AKeeps.bind (aread_keeps _) fun _ => AKeeps.pure _
  | xy =>
    exact AKeeps.get_bind fun _ _ => AKeeps.bind (aread_keeps _) fun _ => AKeeps.bind (aread_keeps _) fun _ =>
      AKeeps.pure _

theorem aluStore_keeps (dst : Option Word) (v : Byte) : AKeeps (aluStore dst v) := by
  cases dst with
  | none => exact AKeeps.modify fun _ h => h
  | some t => exact awrite_keeps _ _

theorem armw_keeps {f : Byte → A Byte} (hf : ∀ v, AKeeps (f v)) (op : ARmw) : AKeeps (armw f op) := by
  have hm : ∀ (g : Byte → Apu → Apu) (_ : ∀ v u, AudioOk u → AudioOk (g v u)) (v : Byte), AKeeps (modify (g v) : A PUnit) :=
    fun g hg v => AKeeps.modify fun u h => hg v u h
  cases op with
  | mem m =>
    exact AKeeps.bind (aaddr_keeps m) fun _ => AKeeps.bind (aread_keeps _) fun _ => AKeeps.bind (hf _) fun _ =>
      awrite_keeps _ _
  | a => exact AKeeps.get_bind fun _ _ => AKeeps.bind (hf _) fun v => hm (fun v u => { u with a := v }) (fun _ _ h => h) v
  | x => exact AKeeps.get_bind fun _ _ => AKeeps.bind (hf _) fun v => hm (fun v u => { u with x := v }) (fun _ _ h => h) v
  | y => exact AKeeps.get_bind fun _ _ => AKeeps.bind (hf _) fun v => hm (fun v u => { u with y := v }) (fun _ _ h => h) v

theorem apush_keeps (v : Byte) : AKeeps (apush v) :=
  AKeeps.get_bind fun _ _ => AKeeps.bind (awrite_keeps _ _) fun _ => AKeeps.modify fun _ h => h

theorem apull_keeps : AKeeps apull :=
  AKeeps.bind (AKeeps.modify fun _ h => h) fun _ => AKeeps.get_bind fun _ _ => aread_keeps _

theorem apushPC_keeps (v : Word) : AKeeps (apushPC v) := AKeeps.bind (apush_keeps _) fun _ => apush_keeps _

theorem apullPC_keeps : AKeeps apullPC :=
  AKeeps.bind apull_keeps fun _ => AKeeps.bind apull_keeps fun _ => AKeeps.pure _

theorem aword_keeps (t : Word) : AKeeps (aword t) :=
  AKeeps.bind (aread_keeps _) fun _ => AKeeps.bind (aread_keeps _) fun _ => AKeeps.pure _

theorem abranch_keeps (c : Bool) (r : Byte) : AKeeps (abranch c r) := by
  unfold abranch
  exact AKeeps.ite (fun _ => AKeeps.bind (AKeeps.modify fun _ h => h) fun _ => AKeeps.pure _) fun _ =>
    AKeeps.bind (AKeeps.pure _) fun _ => AKeeps.pure _

theorem setApc_keeps (v : Word) : AKeeps (setApc v) := AKeeps.modify fun _ h => h

theorem memBit_keeps (m : BitVec 13) (b : BitVec 3) : AKeeps (memBit m b) :=
  AKeeps.bind (aread_keeps _) fun _ => AKeeps.pure _

set_option linter.unusedSimpArgs false in
/-- The body of every audio instruction keeps the form. -/
theorem audioBody_keeps {i : Instr} {body : A Bool} (h : audioBody i = some body) : AKeeps body := by
  cases i <;> simp only [audioBody, reduceCtorEq, Option.some.injEq] at h <;> subst h
  all_goals
    simp only [audioMovA, audioMovX, audioMovY, audioMovStA, audioMovStX, audioMovStY, audioMovXA, audioMovAX, audioMovYA,
      audioMovAY, audioMovXSp, audioMovSpX, audioMovDD, audioMovDI, audioMovIncA, audioMovAInc, audioAdc, audioSbc, audioCmp,
      audioCmpX, audioCmpY, aLogic, audioAnd, audioOr, audioEor, audioInc, audioDec, audioAsl, audioLsr, audioRol, audioRor,
      audioXcn, audioMovwLd, audioMovwSt, audioIncw, audioDecw, audioAddw, audioSubw, audioCmpw, audioMul, audioDiv, audioDaa,
      audioDas, audioBra, audioBeq, audioBne, audioBcs, audioBcc, audioBvs, audioBvc, audioBmi, audioBpl, audioBbs, audioBbc,
      audioCbne, audioCbneX, audioDbnz, audioDbnzY, audioJmp, audioJmpInd, audioCall, audioPcall, audioTcall, audioBrk,
      audioRet, audioReti, audioPush, audioPop, audioSet1, audioClr1, audioTset1, audioTclr1, audioAnd1, audioOr1, audioEor1,
      audioNot1, audioMov1Ld, audioMov1St, audioClrc, audioSetc, audioNotc, audioClrv, audioClrp, audioSetp, audioEi, audioDi,
      audioNop, audioSleep, audioStop]
    repeat' with_reducible first
      | exact AKeeps.pure _ | exact AKeeps.get | exact setnz_keeps _ | exact setnz16_keeps _ | exact setAflag_keeps _ _
      | exact aread_keeps _ | exact awrite_keeps _ _ | exact dpAddr_keeps _ | exact aaddr_keeps _ | exact asrc_keeps _
      | exact wordRead_keeps _ | exact wordWrite_keeps _ _ | exact aluOperands_keeps _ | exact aluStore_keeps _ _
      | exact aAdc8_keeps _ _ | exact aSbc8_keeps _ _ | exact aCmp8_keeps _ _ | exact apush_keeps _ | exact apull_keeps
      | exact apushPC_keeps _ | exact apullPC_keeps | exact aword_keeps _ | exact abranch_keeps _ _ | exact setApc_keeps _
      | exact memBit_keeps _ _ | exact aflag_keeps _ | (refine armw_keeps (fun _ => ?_) _)
      | (refine AKeeps.get_bind fun _ _ => ?_) | (refine AKeeps.bind ?_ fun _ => ?_) | (refine AKeeps.ite (fun _ => ?_) fun _ => ?_)
      | (refine AKeeps.modify fun _ h => ?_) | (refine AKeeps.set ?_)
  all_goals first
    | assumption
    | (split <;> assumption)

/-- An audio instruction keeps the form. -/
theorem audioInstruction_audioOk (cfg : Config) {u : Apu} (h : AudioOk u) : AudioOk (audioInstruction cfg u).1 := by
  have h1 := afetch_keeps cfg u h
  rcases hf : (afetch.run cfg).run u with ⟨op, u1⟩
  rw [hf] at h1
  have h2 := afetchN_keeps (((audioShape op).map (·.operands true true)).getD 0) cfg u1 h1
  rcases hn : ((afetchN (((audioShape op).map (·.operands true true)).getD 0)).run cfg).run u1 with ⟨bs, u2⟩
  rw [hn] at h2
  simp only [audioInstruction, hf, hn]
  split_ifs
  · exact h1
  · split
    · rename_i i body hb
      have hbody : audioBody i = some body := by
        rw [Option.bind_eq_some_iff] at hb
        obtain ⟨p, _, hp⟩ := hb
        rw [Option.map_eq_some_iff] at hp
        obtain ⟨b, hb, hq⟩ := hp
        cases hq
        exact hb
      exact audioBody_keeps hbody cfg _ h2
    · exact h

/-- The catch-up loop keeps the form. -/
theorem audioRun_audioOk (cfg : Config) (target n : Nat) {u : Apu} (h : AudioOk u) :
    AudioOk (audioRun cfg target n u).1 := by
  induction n generalizing u with
  | zero => exact h
  | succ n ih =>
    have hi := audioInstruction_audioOk cfg h
    simp only [audioRun]
    split_ifs
    · exact h
    · split
      · rename_i u' heq
        rw [heq] at hi
        exact ih hi
      · rename_i u' stop heq
        rw [heq] at hi
        exact hi
    · exact h

end Sys2Proof.Laws
end

