-- ==== Sys2Proof/Laws/State.lean ====
section
/-!
SUPPORT. One lemma per field per update of the state, and of the main CPU's registers, each true by unfolding.
-/

namespace Sys2Proof.Laws

open Sys2Proof Sys2Proof.Machine


/-! ## onCpu -/

@[simp] theorem onCpu_cfg (f : Cpu → Cpu) (s : State) : (s.onCpu f).cfg = s.cfg := rfl
@[simp] theorem onCpu_cpu (f : Cpu → Cpu) (s : State) : (s.onCpu f).cpu = f s.cpu := rfl
@[simp] theorem onCpu_apu (f : Cpu → Cpu) (s : State) : (s.onCpu f).apu = s.apu := rfl
@[simp] theorem onCpu_ppu (f : Cpu → Cpu) (s : State) : (s.onCpu f).ppu = s.ppu := rfl
@[simp] theorem onCpu_dma (f : Cpu → Cpu) (s : State) : (s.onCpu f).dma = s.dma := rfl
@[simp] theorem onCpu_hdmaen (f : Cpu → Cpu) (s : State) : (s.onCpu f).hdmaen = s.hdmaen := rfl
@[simp] theorem onCpu_math (f : Cpu → Cpu) (s : State) : (s.onCpu f).math = s.math := rfl
@[simp] theorem onCpu_io (f : Cpu → Cpu) (s : State) : (s.onCpu f).io = s.io := rfl
@[simp] theorem onCpu_sched (f : Cpu → Cpu) (s : State) : (s.onCpu f).sched = s.sched := rfl
@[simp] theorem onCpu_wram (f : Cpu → Cpu) (s : State) : (s.onCpu f).wram = s.wram := rfl
@[simp] theorem onCpu_wmadd (f : Cpu → Cpu) (s : State) : (s.onCpu f).wmadd = s.wmadd := rfl
@[simp] theorem onCpu_sram (f : Cpu → Cpu) (s : State) : (s.onCpu f).sram = s.sram := rfl
@[simp] theorem onCpu_fatal (f : Cpu → Cpu) (s : State) : (s.onCpu f).fatal = s.fatal := rfl
@[simp] theorem onCpu_marks (f : Cpu → Cpu) (s : State) : (s.onCpu f).marks = s.marks := rfl
@[simp] theorem onCpu_draws (f : Cpu → Cpu) (s : State) : (s.onCpu f).draws = s.draws := rfl
@[simp] theorem onCpu_resetDone (f : Cpu → Cpu) (s : State) : (s.onCpu f).resetDone = s.resetDone := rfl
@[simp] theorem onCpu_onCpu (f g : Cpu → Cpu) (s : State) : (s.onCpu f).onCpu g = s.onCpu fun b => g (f b) := rfl

/-! ## onApu -/

@[simp] theorem onApu_cfg (f : Apu → Apu) (s : State) : (s.onApu f).cfg = s.cfg := rfl
@[simp] theorem onApu_cpu (f : Apu → Apu) (s : State) : (s.onApu f).cpu = s.cpu := rfl
@[simp] theorem onApu_apu (f : Apu → Apu) (s : State) : (s.onApu f).apu = f s.apu := rfl
@[simp] theorem onApu_ppu (f : Apu → Apu) (s : State) : (s.onApu f).ppu = s.ppu := rfl
@[simp] theorem onApu_dma (f : Apu → Apu) (s : State) : (s.onApu f).dma = s.dma := rfl
@[simp] theorem onApu_hdmaen (f : Apu → Apu) (s : State) : (s.onApu f).hdmaen = s.hdmaen := rfl
@[simp] theorem onApu_math (f : Apu → Apu) (s : State) : (s.onApu f).math = s.math := rfl
@[simp] theorem onApu_io (f : Apu → Apu) (s : State) : (s.onApu f).io = s.io := rfl
@[simp] theorem onApu_sched (f : Apu → Apu) (s : State) : (s.onApu f).sched = s.sched := rfl
@[simp] theorem onApu_wram (f : Apu → Apu) (s : State) : (s.onApu f).wram = s.wram := rfl
@[simp] theorem onApu_wmadd (f : Apu → Apu) (s : State) : (s.onApu f).wmadd = s.wmadd := rfl
@[simp] theorem onApu_sram (f : Apu → Apu) (s : State) : (s.onApu f).sram = s.sram := rfl
@[simp] theorem onApu_fatal (f : Apu → Apu) (s : State) : (s.onApu f).fatal = s.fatal := rfl
@[simp] theorem onApu_marks (f : Apu → Apu) (s : State) : (s.onApu f).marks = s.marks := rfl
@[simp] theorem onApu_draws (f : Apu → Apu) (s : State) : (s.onApu f).draws = s.draws := rfl
@[simp] theorem onApu_resetDone (f : Apu → Apu) (s : State) : (s.onApu f).resetDone = s.resetDone := rfl
@[simp] theorem onApu_onApu (f g : Apu → Apu) (s : State) : (s.onApu f).onApu g = s.onApu fun b => g (f b) := rfl

/-! ## onPpu -/

@[simp] theorem onPpu_cfg (f : Ppu → Ppu) (s : State) : (s.onPpu f).cfg = s.cfg := rfl
@[simp] theorem onPpu_cpu (f : Ppu → Ppu) (s : State) : (s.onPpu f).cpu = s.cpu := rfl
@[simp] theorem onPpu_apu (f : Ppu → Ppu) (s : State) : (s.onPpu f).apu = s.apu := rfl
@[simp] theorem onPpu_ppu (f : Ppu → Ppu) (s : State) : (s.onPpu f).ppu = f s.ppu := rfl
@[simp] theorem onPpu_dma (f : Ppu → Ppu) (s : State) : (s.onPpu f).dma = s.dma := rfl
@[simp] theorem onPpu_hdmaen (f : Ppu → Ppu) (s : State) : (s.onPpu f).hdmaen = s.hdmaen := rfl
@[simp] theorem onPpu_math (f : Ppu → Ppu) (s : State) : (s.onPpu f).math = s.math := rfl
@[simp] theorem onPpu_io (f : Ppu → Ppu) (s : State) : (s.onPpu f).io = s.io := rfl
@[simp] theorem onPpu_sched (f : Ppu → Ppu) (s : State) : (s.onPpu f).sched = s.sched := rfl
@[simp] theorem onPpu_wram (f : Ppu → Ppu) (s : State) : (s.onPpu f).wram = s.wram := rfl
@[simp] theorem onPpu_wmadd (f : Ppu → Ppu) (s : State) : (s.onPpu f).wmadd = s.wmadd := rfl
@[simp] theorem onPpu_sram (f : Ppu → Ppu) (s : State) : (s.onPpu f).sram = s.sram := rfl
@[simp] theorem onPpu_fatal (f : Ppu → Ppu) (s : State) : (s.onPpu f).fatal = s.fatal := rfl
@[simp] theorem onPpu_marks (f : Ppu → Ppu) (s : State) : (s.onPpu f).marks = s.marks := rfl
@[simp] theorem onPpu_draws (f : Ppu → Ppu) (s : State) : (s.onPpu f).draws = s.draws := rfl
@[simp] theorem onPpu_resetDone (f : Ppu → Ppu) (s : State) : (s.onPpu f).resetDone = s.resetDone := rfl
@[simp] theorem onPpu_onPpu (f g : Ppu → Ppu) (s : State) : (s.onPpu f).onPpu g = s.onPpu fun b => g (f b) := rfl

/-! ## onMath -/

@[simp] theorem onMath_cfg (f : MathUnit → MathUnit) (s : State) : (s.onMath f).cfg = s.cfg := rfl
@[simp] theorem onMath_cpu (f : MathUnit → MathUnit) (s : State) : (s.onMath f).cpu = s.cpu := rfl
@[simp] theorem onMath_apu (f : MathUnit → MathUnit) (s : State) : (s.onMath f).apu = s.apu := rfl
@[simp] theorem onMath_ppu (f : MathUnit → MathUnit) (s : State) : (s.onMath f).ppu = s.ppu := rfl
@[simp] theorem onMath_dma (f : MathUnit → MathUnit) (s : State) : (s.onMath f).dma = s.dma := rfl
@[simp] theorem onMath_hdmaen (f : MathUnit → MathUnit) (s : State) : (s.onMath f).hdmaen = s.hdmaen := rfl
@[simp] theorem onMath_math (f : MathUnit → MathUnit) (s : State) : (s.onMath f).math = f s.math := rfl
@[simp] theorem onMath_io (f : MathUnit → MathUnit) (s : State) : (s.onMath f).io = s.io := rfl
@[simp] theorem onMath_sched (f : MathUnit → MathUnit) (s : State) : (s.onMath f).sched = s.sched := rfl
@[simp] theorem onMath_wram (f : MathUnit → MathUnit) (s : State) : (s.onMath f).wram = s.wram := rfl
@[simp] theorem onMath_wmadd (f : MathUnit → MathUnit) (s : State) : (s.onMath f).wmadd = s.wmadd := rfl
@[simp] theorem onMath_sram (f : MathUnit → MathUnit) (s : State) : (s.onMath f).sram = s.sram := rfl
@[simp] theorem onMath_fatal (f : MathUnit → MathUnit) (s : State) : (s.onMath f).fatal = s.fatal := rfl
@[simp] theorem onMath_marks (f : MathUnit → MathUnit) (s : State) : (s.onMath f).marks = s.marks := rfl
@[simp] theorem onMath_draws (f : MathUnit → MathUnit) (s : State) : (s.onMath f).draws = s.draws := rfl
@[simp] theorem onMath_resetDone (f : MathUnit → MathUnit) (s : State) : (s.onMath f).resetDone = s.resetDone := rfl
@[simp] theorem onMath_onMath (f g : MathUnit → MathUnit) (s : State) : (s.onMath f).onMath g = s.onMath fun b => g (f b) := rfl

/-! ## onIo -/

@[simp] theorem onIo_cfg (f : IoRegs → IoRegs) (s : State) : (s.onIo f).cfg = s.cfg := rfl
@[simp] theorem onIo_cpu (f : IoRegs → IoRegs) (s : State) : (s.onIo f).cpu = s.cpu := rfl
@[simp] theorem onIo_apu (f : IoRegs → IoRegs) (s : State) : (s.onIo f).apu = s.apu := rfl
@[simp] theorem onIo_ppu (f : IoRegs → IoRegs) (s : State) : (s.onIo f).ppu = s.ppu := rfl
@[simp] theorem onIo_dma (f : IoRegs → IoRegs) (s : State) : (s.onIo f).dma = s.dma := rfl
@[simp] theorem onIo_hdmaen (f : IoRegs → IoRegs) (s : State) : (s.onIo f).hdmaen = s.hdmaen := rfl
@[simp] theorem onIo_math (f : IoRegs → IoRegs) (s : State) : (s.onIo f).math = s.math := rfl
@[simp] theorem onIo_io (f : IoRegs → IoRegs) (s : State) : (s.onIo f).io = f s.io := rfl
@[simp] theorem onIo_sched (f : IoRegs → IoRegs) (s : State) : (s.onIo f).sched = s.sched := rfl
@[simp] theorem onIo_wram (f : IoRegs → IoRegs) (s : State) : (s.onIo f).wram = s.wram := rfl
@[simp] theorem onIo_wmadd (f : IoRegs → IoRegs) (s : State) : (s.onIo f).wmadd = s.wmadd := rfl
@[simp] theorem onIo_sram (f : IoRegs → IoRegs) (s : State) : (s.onIo f).sram = s.sram := rfl
@[simp] theorem onIo_fatal (f : IoRegs → IoRegs) (s : State) : (s.onIo f).fatal = s.fatal := rfl
@[simp] theorem onIo_marks (f : IoRegs → IoRegs) (s : State) : (s.onIo f).marks = s.marks := rfl
@[simp] theorem onIo_draws (f : IoRegs → IoRegs) (s : State) : (s.onIo f).draws = s.draws := rfl
@[simp] theorem onIo_resetDone (f : IoRegs → IoRegs) (s : State) : (s.onIo f).resetDone = s.resetDone := rfl
@[simp] theorem onIo_onIo (f g : IoRegs → IoRegs) (s : State) : (s.onIo f).onIo g = s.onIo fun b => g (f b) := rfl

/-! ## onSched -/

@[simp] theorem onSched_cfg (f : Sched → Sched) (s : State) : (s.onSched f).cfg = s.cfg := rfl
@[simp] theorem onSched_cpu (f : Sched → Sched) (s : State) : (s.onSched f).cpu = s.cpu := rfl
@[simp] theorem onSched_apu (f : Sched → Sched) (s : State) : (s.onSched f).apu = s.apu := rfl
@[simp] theorem onSched_ppu (f : Sched → Sched) (s : State) : (s.onSched f).ppu = s.ppu := rfl
@[simp] theorem onSched_dma (f : Sched → Sched) (s : State) : (s.onSched f).dma = s.dma := rfl
@[simp] theorem onSched_hdmaen (f : Sched → Sched) (s : State) : (s.onSched f).hdmaen = s.hdmaen := rfl
@[simp] theorem onSched_math (f : Sched → Sched) (s : State) : (s.onSched f).math = s.math := rfl
@[simp] theorem onSched_io (f : Sched → Sched) (s : State) : (s.onSched f).io = s.io := rfl
@[simp] theorem onSched_sched (f : Sched → Sched) (s : State) : (s.onSched f).sched = f s.sched := rfl
@[simp] theorem onSched_wram (f : Sched → Sched) (s : State) : (s.onSched f).wram = s.wram := rfl
@[simp] theorem onSched_wmadd (f : Sched → Sched) (s : State) : (s.onSched f).wmadd = s.wmadd := rfl
@[simp] theorem onSched_sram (f : Sched → Sched) (s : State) : (s.onSched f).sram = s.sram := rfl
@[simp] theorem onSched_fatal (f : Sched → Sched) (s : State) : (s.onSched f).fatal = s.fatal := rfl
@[simp] theorem onSched_marks (f : Sched → Sched) (s : State) : (s.onSched f).marks = s.marks := rfl
@[simp] theorem onSched_draws (f : Sched → Sched) (s : State) : (s.onSched f).draws = s.draws := rfl
@[simp] theorem onSched_resetDone (f : Sched → Sched) (s : State) : (s.onSched f).resetDone = s.resetDone := rfl
@[simp] theorem onSched_onSched (f g : Sched → Sched) (s : State) : (s.onSched f).onSched g = s.onSched fun b => g (f b) := rfl

/-! ## onMarks -/

@[simp] theorem onMarks_cfg (f : Marks → Marks) (s : State) : (s.onMarks f).cfg = s.cfg := rfl
@[simp] theorem onMarks_cpu (f : Marks → Marks) (s : State) : (s.onMarks f).cpu = s.cpu := rfl
@[simp] theorem onMarks_apu (f : Marks → Marks) (s : State) : (s.onMarks f).apu = s.apu := rfl
@[simp] theorem onMarks_ppu (f : Marks → Marks) (s : State) : (s.onMarks f).ppu = s.ppu := rfl
@[simp] theorem onMarks_dma (f : Marks → Marks) (s : State) : (s.onMarks f).dma = s.dma := rfl
@[simp] theorem onMarks_hdmaen (f : Marks → Marks) (s : State) : (s.onMarks f).hdmaen = s.hdmaen := rfl
@[simp] theorem onMarks_math (f : Marks → Marks) (s : State) : (s.onMarks f).math = s.math := rfl
@[simp] theorem onMarks_io (f : Marks → Marks) (s : State) : (s.onMarks f).io = s.io := rfl
@[simp] theorem onMarks_sched (f : Marks → Marks) (s : State) : (s.onMarks f).sched = s.sched := rfl
@[simp] theorem onMarks_wram (f : Marks → Marks) (s : State) : (s.onMarks f).wram = s.wram := rfl
@[simp] theorem onMarks_wmadd (f : Marks → Marks) (s : State) : (s.onMarks f).wmadd = s.wmadd := rfl
@[simp] theorem onMarks_sram (f : Marks → Marks) (s : State) : (s.onMarks f).sram = s.sram := rfl
@[simp] theorem onMarks_fatal (f : Marks → Marks) (s : State) : (s.onMarks f).fatal = s.fatal := rfl
@[simp] theorem onMarks_marks (f : Marks → Marks) (s : State) : (s.onMarks f).marks = f s.marks := rfl
@[simp] theorem onMarks_draws (f : Marks → Marks) (s : State) : (s.onMarks f).draws = s.draws := rfl
@[simp] theorem onMarks_resetDone (f : Marks → Marks) (s : State) : (s.onMarks f).resetDone = s.resetDone := rfl
@[simp] theorem onMarks_onMarks (f g : Marks → Marks) (s : State) : (s.onMarks f).onMarks g = s.onMarks fun b => g (f b) := rfl

/-! ## onDma -/

@[simp] theorem onDma_cfg (f : Cells Byte → Cells Byte) (s : State) : (s.onDma f).cfg = s.cfg := rfl
@[simp] theorem onDma_cpu (f : Cells Byte → Cells Byte) (s : State) : (s.onDma f).cpu = s.cpu := rfl
@[simp] theorem onDma_apu (f : Cells Byte → Cells Byte) (s : State) : (s.onDma f).apu = s.apu := rfl
@[simp] theorem onDma_ppu (f : Cells Byte → Cells Byte) (s : State) : (s.onDma f).ppu = s.ppu := rfl
@[simp] theorem onDma_dma (f : Cells Byte → Cells Byte) (s : State) : (s.onDma f).dma = f s.dma := rfl
@[simp] theorem onDma_hdmaen (f : Cells Byte → Cells Byte) (s : State) : (s.onDma f).hdmaen = s.hdmaen := rfl
@[simp] theorem onDma_math (f : Cells Byte → Cells Byte) (s : State) : (s.onDma f).math = s.math := rfl
@[simp] theorem onDma_io (f : Cells Byte → Cells Byte) (s : State) : (s.onDma f).io = s.io := rfl
@[simp] theorem onDma_sched (f : Cells Byte → Cells Byte) (s : State) : (s.onDma f).sched = s.sched := rfl
@[simp] theorem onDma_wram (f : Cells Byte → Cells Byte) (s : State) : (s.onDma f).wram = s.wram := rfl
@[simp] theorem onDma_wmadd (f : Cells Byte → Cells Byte) (s : State) : (s.onDma f).wmadd = s.wmadd := rfl
@[simp] theorem onDma_sram (f : Cells Byte → Cells Byte) (s : State) : (s.onDma f).sram = s.sram := rfl
@[simp] theorem onDma_fatal (f : Cells Byte → Cells Byte) (s : State) : (s.onDma f).fatal = s.fatal := rfl
@[simp] theorem onDma_marks (f : Cells Byte → Cells Byte) (s : State) : (s.onDma f).marks = s.marks := rfl
@[simp] theorem onDma_draws (f : Cells Byte → Cells Byte) (s : State) : (s.onDma f).draws = s.draws := rfl
@[simp] theorem onDma_resetDone (f : Cells Byte → Cells Byte) (s : State) : (s.onDma f).resetDone = s.resetDone := rfl
@[simp] theorem onDma_onDma (f g : Cells Byte → Cells Byte) (s : State) : (s.onDma f).onDma g = s.onDma fun b => g (f b) := rfl

/-! ## onWram -/

@[simp] theorem onWram_cfg (f : Cells Byte → Cells Byte) (s : State) : (s.onWram f).cfg = s.cfg := rfl
@[simp] theorem onWram_cpu (f : Cells Byte → Cells Byte) (s : State) : (s.onWram f).cpu = s.cpu := rfl
@[simp] theorem onWram_apu (f : Cells Byte → Cells Byte) (s : State) : (s.onWram f).apu = s.apu := rfl
@[simp] theorem onWram_ppu (f : Cells Byte → Cells Byte) (s : State) : (s.onWram f).ppu = s.ppu := rfl
@[simp] theorem onWram_dma (f : Cells Byte → Cells Byte) (s : State) : (s.onWram f).dma = s.dma := rfl
@[simp] theorem onWram_hdmaen (f : Cells Byte → Cells Byte) (s : State) : (s.onWram f).hdmaen = s.hdmaen := rfl
@[simp] theorem onWram_math (f : Cells Byte → Cells Byte) (s : State) : (s.onWram f).math = s.math := rfl
@[simp] theorem onWram_io (f : Cells Byte → Cells Byte) (s : State) : (s.onWram f).io = s.io := rfl
@[simp] theorem onWram_sched (f : Cells Byte → Cells Byte) (s : State) : (s.onWram f).sched = s.sched := rfl
@[simp] theorem onWram_wram (f : Cells Byte → Cells Byte) (s : State) : (s.onWram f).wram = f s.wram := rfl
@[simp] theorem onWram_wmadd (f : Cells Byte → Cells Byte) (s : State) : (s.onWram f).wmadd = s.wmadd := rfl
@[simp] theorem onWram_sram (f : Cells Byte → Cells Byte) (s : State) : (s.onWram f).sram = s.sram := rfl
@[simp] theorem onWram_fatal (f : Cells Byte → Cells Byte) (s : State) : (s.onWram f).fatal = s.fatal := rfl
@[simp] theorem onWram_marks (f : Cells Byte → Cells Byte) (s : State) : (s.onWram f).marks = s.marks := rfl
@[simp] theorem onWram_draws (f : Cells Byte → Cells Byte) (s : State) : (s.onWram f).draws = s.draws := rfl
@[simp] theorem onWram_resetDone (f : Cells Byte → Cells Byte) (s : State) : (s.onWram f).resetDone = s.resetDone := rfl
@[simp] theorem onWram_onWram (f g : Cells Byte → Cells Byte) (s : State) : (s.onWram f).onWram g = s.onWram fun b => g (f b) := rfl

/-! ## onSram -/

@[simp] theorem onSram_cfg (f : Cells Byte → Cells Byte) (s : State) : (s.onSram f).cfg = s.cfg := rfl
@[simp] theorem onSram_cpu (f : Cells Byte → Cells Byte) (s : State) : (s.onSram f).cpu = s.cpu := rfl
@[simp] theorem onSram_apu (f : Cells Byte → Cells Byte) (s : State) : (s.onSram f).apu = s.apu := rfl
@[simp] theorem onSram_ppu (f : Cells Byte → Cells Byte) (s : State) : (s.onSram f).ppu = s.ppu := rfl
@[simp] theorem onSram_dma (f : Cells Byte → Cells Byte) (s : State) : (s.onSram f).dma = s.dma := rfl
@[simp] theorem onSram_hdmaen (f : Cells Byte → Cells Byte) (s : State) : (s.onSram f).hdmaen = s.hdmaen := rfl
@[simp] theorem onSram_math (f : Cells Byte → Cells Byte) (s : State) : (s.onSram f).math = s.math := rfl
@[simp] theorem onSram_io (f : Cells Byte → Cells Byte) (s : State) : (s.onSram f).io = s.io := rfl
@[simp] theorem onSram_sched (f : Cells Byte → Cells Byte) (s : State) : (s.onSram f).sched = s.sched := rfl
@[simp] theorem onSram_wram (f : Cells Byte → Cells Byte) (s : State) : (s.onSram f).wram = s.wram := rfl
@[simp] theorem onSram_wmadd (f : Cells Byte → Cells Byte) (s : State) : (s.onSram f).wmadd = s.wmadd := rfl
@[simp] theorem onSram_sram (f : Cells Byte → Cells Byte) (s : State) : (s.onSram f).sram = f s.sram := rfl
@[simp] theorem onSram_fatal (f : Cells Byte → Cells Byte) (s : State) : (s.onSram f).fatal = s.fatal := rfl
@[simp] theorem onSram_marks (f : Cells Byte → Cells Byte) (s : State) : (s.onSram f).marks = s.marks := rfl
@[simp] theorem onSram_draws (f : Cells Byte → Cells Byte) (s : State) : (s.onSram f).draws = s.draws := rfl
@[simp] theorem onSram_resetDone (f : Cells Byte → Cells Byte) (s : State) : (s.onSram f).resetDone = s.resetDone := rfl
@[simp] theorem onSram_onSram (f g : Cells Byte → Cells Byte) (s : State) : (s.onSram f).onSram g = s.onSram fun b => g (f b) := rfl

/-! ## setWmadd -/

@[simp] theorem setWmadd_cfg (v : BitVec 17) (s : State) : (s.setWmadd v).cfg = s.cfg := rfl
@[simp] theorem setWmadd_cpu (v : BitVec 17) (s : State) : (s.setWmadd v).cpu = s.cpu := rfl
@[simp] theorem setWmadd_apu (v : BitVec 17) (s : State) : (s.setWmadd v).apu = s.apu := rfl
@[simp] theorem setWmadd_ppu (v : BitVec 17) (s : State) : (s.setWmadd v).ppu = s.ppu := rfl
@[simp] theorem setWmadd_dma (v : BitVec 17) (s : State) : (s.setWmadd v).dma = s.dma := rfl
@[simp] theorem setWmadd_hdmaen (v : BitVec 17) (s : State) : (s.setWmadd v).hdmaen = s.hdmaen := rfl
@[simp] theorem setWmadd_math (v : BitVec 17) (s : State) : (s.setWmadd v).math = s.math := rfl
@[simp] theorem setWmadd_io (v : BitVec 17) (s : State) : (s.setWmadd v).io = s.io := rfl
@[simp] theorem setWmadd_sched (v : BitVec 17) (s : State) : (s.setWmadd v).sched = s.sched := rfl
@[simp] theorem setWmadd_wram (v : BitVec 17) (s : State) : (s.setWmadd v).wram = s.wram := rfl
@[simp] theorem setWmadd_wmadd (v : BitVec 17) (s : State) : (s.setWmadd v).wmadd = v := rfl
@[simp] theorem setWmadd_sram (v : BitVec 17) (s : State) : (s.setWmadd v).sram = s.sram := rfl
@[simp] theorem setWmadd_fatal (v : BitVec 17) (s : State) : (s.setWmadd v).fatal = s.fatal := rfl
@[simp] theorem setWmadd_marks (v : BitVec 17) (s : State) : (s.setWmadd v).marks = s.marks := rfl
@[simp] theorem setWmadd_draws (v : BitVec 17) (s : State) : (s.setWmadd v).draws = s.draws := rfl
@[simp] theorem setWmadd_resetDone (v : BitVec 17) (s : State) : (s.setWmadd v).resetDone = s.resetDone := rfl

/-! ## setHdmaen -/

@[simp] theorem setHdmaen_cfg (v : Byte) (s : State) : (s.setHdmaen v).cfg = s.cfg := rfl
@[simp] theorem setHdmaen_cpu (v : Byte) (s : State) : (s.setHdmaen v).cpu = s.cpu := rfl
@[simp] theorem setHdmaen_apu (v : Byte) (s : State) : (s.setHdmaen v).apu = s.apu := rfl
@[simp] theorem setHdmaen_ppu (v : Byte) (s : State) : (s.setHdmaen v).ppu = s.ppu := rfl
@[simp] theorem setHdmaen_dma (v : Byte) (s : State) : (s.setHdmaen v).dma = s.dma := rfl
@[simp] theorem setHdmaen_hdmaen (v : Byte) (s : State) : (s.setHdmaen v).hdmaen = v := rfl
@[simp] theorem setHdmaen_math (v : Byte) (s : State) : (s.setHdmaen v).math = s.math := rfl
@[simp] theorem setHdmaen_io (v : Byte) (s : State) : (s.setHdmaen v).io = s.io := rfl
@[simp] theorem setHdmaen_sched (v : Byte) (s : State) : (s.setHdmaen v).sched = s.sched := rfl
@[simp] theorem setHdmaen_wram (v : Byte) (s : State) : (s.setHdmaen v).wram = s.wram := rfl
@[simp] theorem setHdmaen_wmadd (v : Byte) (s : State) : (s.setHdmaen v).wmadd = s.wmadd := rfl
@[simp] theorem setHdmaen_sram (v : Byte) (s : State) : (s.setHdmaen v).sram = s.sram := rfl
@[simp] theorem setHdmaen_fatal (v : Byte) (s : State) : (s.setHdmaen v).fatal = s.fatal := rfl
@[simp] theorem setHdmaen_marks (v : Byte) (s : State) : (s.setHdmaen v).marks = s.marks := rfl
@[simp] theorem setHdmaen_draws (v : Byte) (s : State) : (s.setHdmaen v).draws = s.draws := rfl
@[simp] theorem setHdmaen_resetDone (v : Byte) (s : State) : (s.setHdmaen v).resetDone = s.resetDone := rfl

/-! ## setFatal -/

@[simp] theorem setFatal_cfg (v : Fatal) (s : State) : (s.setFatal v).cfg = s.cfg := rfl
@[simp] theorem setFatal_cpu (v : Fatal) (s : State) : (s.setFatal v).cpu = s.cpu := rfl
@[simp] theorem setFatal_apu (v : Fatal) (s : State) : (s.setFatal v).apu = s.apu := rfl
@[simp] theorem setFatal_ppu (v : Fatal) (s : State) : (s.setFatal v).ppu = s.ppu := rfl
@[simp] theorem setFatal_dma (v : Fatal) (s : State) : (s.setFatal v).dma = s.dma := rfl
@[simp] theorem setFatal_hdmaen (v : Fatal) (s : State) : (s.setFatal v).hdmaen = s.hdmaen := rfl
@[simp] theorem setFatal_math (v : Fatal) (s : State) : (s.setFatal v).math = s.math := rfl
@[simp] theorem setFatal_io (v : Fatal) (s : State) : (s.setFatal v).io = s.io := rfl
@[simp] theorem setFatal_sched (v : Fatal) (s : State) : (s.setFatal v).sched = s.sched := rfl
@[simp] theorem setFatal_wram (v : Fatal) (s : State) : (s.setFatal v).wram = s.wram := rfl
@[simp] theorem setFatal_wmadd (v : Fatal) (s : State) : (s.setFatal v).wmadd = s.wmadd := rfl
@[simp] theorem setFatal_sram (v : Fatal) (s : State) : (s.setFatal v).sram = s.sram := rfl
@[simp] theorem setFatal_fatal (v : Fatal) (s : State) : (s.setFatal v).fatal = some v := rfl
@[simp] theorem setFatal_marks (v : Fatal) (s : State) : (s.setFatal v).marks = s.marks := rfl
@[simp] theorem setFatal_draws (v : Fatal) (s : State) : (s.setFatal v).draws = s.draws := rfl
@[simp] theorem setFatal_resetDone (v : Fatal) (s : State) : (s.setFatal v).resetDone = s.resetDone := rfl

/-! ## bumpDraws -/

@[simp] theorem bumpDraws_cfg (s : State) : s.bumpDraws.cfg = s.cfg := rfl
@[simp] theorem bumpDraws_cpu (s : State) : s.bumpDraws.cpu = s.cpu := rfl
@[simp] theorem bumpDraws_apu (s : State) : s.bumpDraws.apu = s.apu := rfl
@[simp] theorem bumpDraws_ppu (s : State) : s.bumpDraws.ppu = s.ppu := rfl
@[simp] theorem bumpDraws_dma (s : State) : s.bumpDraws.dma = s.dma := rfl
@[simp] theorem bumpDraws_hdmaen (s : State) : s.bumpDraws.hdmaen = s.hdmaen := rfl
@[simp] theorem bumpDraws_math (s : State) : s.bumpDraws.math = s.math := rfl
@[simp] theorem bumpDraws_io (s : State) : s.bumpDraws.io = s.io := rfl
@[simp] theorem bumpDraws_sched (s : State) : s.bumpDraws.sched = s.sched := rfl
@[simp] theorem bumpDraws_wram (s : State) : s.bumpDraws.wram = s.wram := rfl
@[simp] theorem bumpDraws_wmadd (s : State) : s.bumpDraws.wmadd = s.wmadd := rfl
@[simp] theorem bumpDraws_sram (s : State) : s.bumpDraws.sram = s.sram := rfl
@[simp] theorem bumpDraws_fatal (s : State) : s.bumpDraws.fatal = s.fatal := rfl
@[simp] theorem bumpDraws_marks (s : State) : s.bumpDraws.marks = s.marks := rfl
@[simp] theorem bumpDraws_draws (s : State) : s.bumpDraws.draws = s.draws + 1 := rfl
@[simp] theorem bumpDraws_resetDone (s : State) : s.bumpDraws.resetDone = s.resetDone := rfl

/-! ## Cpu.setFlag -/

@[simp] theorem setFlag_c (i : Nat) (v : Bool) (b : Cpu) : (b.setFlag i v).c = b.c := rfl
@[simp] theorem setFlag_x (i : Nat) (v : Bool) (b : Cpu) : (b.setFlag i v).x = b.x := rfl
@[simp] theorem setFlag_y (i : Nat) (v : Bool) (b : Cpu) : (b.setFlag i v).y = b.y := rfl
@[simp] theorem setFlag_s (i : Nat) (v : Bool) (b : Cpu) : (b.setFlag i v).s = b.s := rfl
@[simp] theorem setFlag_d (i : Nat) (v : Bool) (b : Cpu) : (b.setFlag i v).d = b.d := rfl
@[simp] theorem setFlag_pc (i : Nat) (v : Bool) (b : Cpu) : (b.setFlag i v).pc = b.pc := rfl
@[simp] theorem setFlag_pbr (i : Nat) (v : Bool) (b : Cpu) : (b.setFlag i v).pbr = b.pbr := rfl
@[simp] theorem setFlag_dbr (i : Nat) (v : Bool) (b : Cpu) : (b.setFlag i v).dbr = b.dbr := rfl
@[simp] theorem setFlag_p (i : Nat) (v : Bool) (b : Cpu) : (b.setFlag i v).p = putBit i v b.p := rfl
@[simp] theorem setFlag_e (i : Nat) (v : Bool) (b : Cpu) : (b.setFlag i v).e = b.e := rfl
@[simp] theorem setFlag_cycles (i : Nat) (v : Bool) (b : Cpu) : (b.setFlag i v).cycles = b.cycles := rfl
@[simp] theorem setFlag_pending (i : Nat) (v : Bool) (b : Cpu) : (b.setFlag i v).pending = b.pending := rfl
@[simp] theorem setFlag_waiting (i : Nat) (v : Bool) (b : Cpu) : (b.setFlag i v).waiting = b.waiting := rfl
@[simp] theorem setFlag_stopped (i : Nat) (v : Bool) (b : Cpu) : (b.setFlag i v).stopped = b.stopped := rfl

/-! ## Cpu.setNZ -/

@[simp] theorem setNZ_c (v : Word) (w : Width) (b : Cpu) : (b.setNZ v w).c = b.c := rfl
@[simp] theorem setNZ_x (v : Word) (w : Width) (b : Cpu) : (b.setNZ v w).x = b.x := rfl
@[simp] theorem setNZ_y (v : Word) (w : Width) (b : Cpu) : (b.setNZ v w).y = b.y := rfl
@[simp] theorem setNZ_s (v : Word) (w : Width) (b : Cpu) : (b.setNZ v w).s = b.s := rfl
@[simp] theorem setNZ_d (v : Word) (w : Width) (b : Cpu) : (b.setNZ v w).d = b.d := rfl
@[simp] theorem setNZ_pc (v : Word) (w : Width) (b : Cpu) : (b.setNZ v w).pc = b.pc := rfl
@[simp] theorem setNZ_pbr (v : Word) (w : Width) (b : Cpu) : (b.setNZ v w).pbr = b.pbr := rfl
@[simp] theorem setNZ_dbr (v : Word) (w : Width) (b : Cpu) : (b.setNZ v w).dbr = b.dbr := rfl
@[simp] theorem setNZ_p (v : Word) (w : Width) (b : Cpu) : (b.setNZ v w).p = putBit fZ (decide (w.trunc v = 0)) (putBit fN (w.top v) b.p) := rfl
@[simp] theorem setNZ_e (v : Word) (w : Width) (b : Cpu) : (b.setNZ v w).e = b.e := rfl
@[simp] theorem setNZ_cycles (v : Word) (w : Width) (b : Cpu) : (b.setNZ v w).cycles = b.cycles := rfl
@[simp] theorem setNZ_pending (v : Word) (w : Width) (b : Cpu) : (b.setNZ v w).pending = b.pending := rfl
@[simp] theorem setNZ_waiting (v : Word) (w : Width) (b : Cpu) : (b.setNZ v w).waiting = b.waiting := rfl
@[simp] theorem setNZ_stopped (v : Word) (w : Width) (b : Cpu) : (b.setNZ v w).stopped = b.stopped := rfl

/-! ## Cpu.setAcc -/

@[simp] theorem setAcc_c (w : Width) (v : Word) (b : Cpu) : (b.setAcc w v).c = (match w with | .w8 => setLo b.c (lo v) | .w16 => v) := by cases w <;> rfl
@[simp] theorem setAcc_x (w : Width) (v : Word) (b : Cpu) : (b.setAcc w v).x = b.x := by cases w <;> rfl
@[simp] theorem setAcc_y (w : Width) (v : Word) (b : Cpu) : (b.setAcc w v).y = b.y := by cases w <;> rfl
@[simp] theorem setAcc_s (w : Width) (v : Word) (b : Cpu) : (b.setAcc w v).s = b.s := by cases w <;> rfl
@[simp] theorem setAcc_d (w : Width) (v : Word) (b : Cpu) : (b.setAcc w v).d = b.d := by cases w <;> rfl
@[simp] theorem setAcc_pc (w : Width) (v : Word) (b : Cpu) : (b.setAcc w v).pc = b.pc := by cases w <;> rfl
@[simp] theorem setAcc_pbr (w : Width) (v : Word) (b : Cpu) : (b.setAcc w v).pbr = b.pbr := by cases w <;> rfl
@[simp] theorem setAcc_dbr (w : Width) (v : Word) (b : Cpu) : (b.setAcc w v).dbr = b.dbr := by cases w <;> rfl
@[simp] theorem setAcc_p (w : Width) (v : Word) (b : Cpu) : (b.setAcc w v).p = b.p := by cases w <;> rfl
@[simp] theorem setAcc_e (w : Width) (v : Word) (b : Cpu) : (b.setAcc w v).e = b.e := by cases w <;> rfl
@[simp] theorem setAcc_cycles (w : Width) (v : Word) (b : Cpu) : (b.setAcc w v).cycles = b.cycles := by cases w <;> rfl
@[simp] theorem setAcc_pending (w : Width) (v : Word) (b : Cpu) : (b.setAcc w v).pending = b.pending := by cases w <;> rfl
@[simp] theorem setAcc_waiting (w : Width) (v : Word) (b : Cpu) : (b.setAcc w v).waiting = b.waiting := by cases w <;> rfl
@[simp] theorem setAcc_stopped (w : Width) (v : Word) (b : Cpu) : (b.setAcc w v).stopped = b.stopped := by cases w <;> rfl

/-! ## Cpu.setX -/

@[simp] theorem setX_c (w : Width) (v : Word) (b : Cpu) : (b.setX w v).c = b.c := rfl
@[simp] theorem setX_x (w : Width) (v : Word) (b : Cpu) : (b.setX w v).x = w.trunc v := rfl
@[simp] theorem setX_y (w : Width) (v : Word) (b : Cpu) : (b.setX w v).y = b.y := rfl
@[simp] theorem setX_s (w : Width) (v : Word) (b : Cpu) : (b.setX w v).s = b.s := rfl
@[simp] theorem setX_d (w : Width) (v : Word) (b : Cpu) : (b.setX w v).d = b.d := rfl
@[simp] theorem setX_pc (w : Width) (v : Word) (b : Cpu) : (b.setX w v).pc = b.pc := rfl
@[simp] theorem setX_pbr (w : Width) (v : Word) (b : Cpu) : (b.setX w v).pbr = b.pbr := rfl
@[simp] theorem setX_dbr (w : Width) (v : Word) (b : Cpu) : (b.setX w v).dbr = b.dbr := rfl
@[simp] theorem setX_p (w : Width) (v : Word) (b : Cpu) : (b.setX w v).p = b.p := rfl
@[simp] theorem setX_e (w : Width) (v : Word) (b : Cpu) : (b.setX w v).e = b.e := rfl
@[simp] theorem setX_cycles (w : Width) (v : Word) (b : Cpu) : (b.setX w v).cycles = b.cycles := rfl
@[simp] theorem setX_pending (w : Width) (v : Word) (b : Cpu) : (b.setX w v).pending = b.pending := rfl
@[simp] theorem setX_waiting (w : Width) (v : Word) (b : Cpu) : (b.setX w v).waiting = b.waiting := rfl
@[simp] theorem setX_stopped (w : Width) (v : Word) (b : Cpu) : (b.setX w v).stopped = b.stopped := rfl

/-! ## Cpu.setY -/

@[simp] theorem setY_c (w : Width) (v : Word) (b : Cpu) : (b.setY w v).c = b.c := rfl
@[simp] theorem setY_x (w : Width) (v : Word) (b : Cpu) : (b.setY w v).x = b.x := rfl
@[simp] theorem setY_y (w : Width) (v : Word) (b : Cpu) : (b.setY w v).y = w.trunc v := rfl
@[simp] theorem setY_s (w : Width) (v : Word) (b : Cpu) : (b.setY w v).s = b.s := rfl
@[simp] theorem setY_d (w : Width) (v : Word) (b : Cpu) : (b.setY w v).d = b.d := rfl
@[simp] theorem setY_pc (w : Width) (v : Word) (b : Cpu) : (b.setY w v).pc = b.pc := rfl
@[simp] theorem setY_pbr (w : Width) (v : Word) (b : Cpu) : (b.setY w v).pbr = b.pbr := rfl
@[simp] theorem setY_dbr (w : Width) (v : Word) (b : Cpu) : (b.setY w v).dbr = b.dbr := rfl
@[simp] theorem setY_p (w : Width) (v : Word) (b : Cpu) : (b.setY w v).p = b.p := rfl
@[simp] theorem setY_e (w : Width) (v : Word) (b : Cpu) : (b.setY w v).e = b.e := rfl
@[simp] theorem setY_cycles (w : Width) (v : Word) (b : Cpu) : (b.setY w v).cycles = b.cycles := rfl
@[simp] theorem setY_pending (w : Width) (v : Word) (b : Cpu) : (b.setY w v).pending = b.pending := rfl
@[simp] theorem setY_waiting (w : Width) (v : Word) (b : Cpu) : (b.setY w v).waiting = b.waiting := rfl
@[simp] theorem setY_stopped (w : Width) (v : Word) (b : Cpu) : (b.setY w v).stopped = b.stopped := rfl

/-! ## Cpu.charge -/

@[simp] theorem charge_c (n : Nat) (b : Cpu) : (Cpu.charge n b).c = b.c := rfl
@[simp] theorem charge_x (n : Nat) (b : Cpu) : (Cpu.charge n b).x = b.x := rfl
@[simp] theorem charge_y (n : Nat) (b : Cpu) : (Cpu.charge n b).y = b.y := rfl
@[simp] theorem charge_s (n : Nat) (b : Cpu) : (Cpu.charge n b).s = b.s := rfl
@[simp] theorem charge_d (n : Nat) (b : Cpu) : (Cpu.charge n b).d = b.d := rfl
@[simp] theorem charge_pc (n : Nat) (b : Cpu) : (Cpu.charge n b).pc = b.pc := rfl
@[simp] theorem charge_pbr (n : Nat) (b : Cpu) : (Cpu.charge n b).pbr = b.pbr := rfl
@[simp] theorem charge_dbr (n : Nat) (b : Cpu) : (Cpu.charge n b).dbr = b.dbr := rfl
@[simp] theorem charge_p (n : Nat) (b : Cpu) : (Cpu.charge n b).p = b.p := rfl
@[simp] theorem charge_e (n : Nat) (b : Cpu) : (Cpu.charge n b).e = b.e := rfl
@[simp] theorem charge_cycles (n : Nat) (b : Cpu) : (Cpu.charge n b).cycles = b.cycles + n := rfl
@[simp] theorem charge_pending (n : Nat) (b : Cpu) : (Cpu.charge n b).pending = b.pending + n := rfl
@[simp] theorem charge_waiting (n : Nat) (b : Cpu) : (Cpu.charge n b).waiting = b.waiting := rfl
@[simp] theorem charge_stopped (n : Nat) (b : Cpu) : (Cpu.charge n b).stopped = b.stopped := rfl

/-! ## Cpu.setArith -/

@[simp] theorem setArith_c (w : Width) (r : ArithResult) (b : Cpu) : (b.setArith w r).c = b.c := rfl
@[simp] theorem setArith_x (w : Width) (r : ArithResult) (b : Cpu) : (b.setArith w r).x = b.x := rfl
@[simp] theorem setArith_y (w : Width) (r : ArithResult) (b : Cpu) : (b.setArith w r).y = b.y := rfl
@[simp] theorem setArith_s (w : Width) (r : ArithResult) (b : Cpu) : (b.setArith w r).s = b.s := rfl
@[simp] theorem setArith_d (w : Width) (r : ArithResult) (b : Cpu) : (b.setArith w r).d = b.d := rfl
@[simp] theorem setArith_pc (w : Width) (r : ArithResult) (b : Cpu) : (b.setArith w r).pc = b.pc := rfl
@[simp] theorem setArith_pbr (w : Width) (r : ArithResult) (b : Cpu) : (b.setArith w r).pbr = b.pbr := rfl
@[simp] theorem setArith_dbr (w : Width) (r : ArithResult) (b : Cpu) : (b.setArith w r).dbr = b.dbr := rfl
@[simp] theorem setArith_p (w : Width) (r : ArithResult) (b : Cpu) : (b.setArith w r).p = putBit fZ (decide (w.trunc r.r = 0)) (putBit fN (w.top r.r) (putBit fV r.v (putBit fC r.c b.p))) := rfl
@[simp] theorem setArith_e (w : Width) (r : ArithResult) (b : Cpu) : (b.setArith w r).e = b.e := rfl
@[simp] theorem setArith_cycles (w : Width) (r : ArithResult) (b : Cpu) : (b.setArith w r).cycles = b.cycles := rfl
@[simp] theorem setArith_pending (w : Width) (r : ArithResult) (b : Cpu) : (b.setArith w r).pending = b.pending := rfl
@[simp] theorem setArith_waiting (w : Width) (r : ArithResult) (b : Cpu) : (b.setArith w r).waiting = b.waiting := rfl
@[simp] theorem setArith_stopped (w : Width) (r : ArithResult) (b : Cpu) : (b.setArith w r).stopped = b.stopped := rfl

/-! ## Cpu.decS -/

@[simp] theorem decS_c (b : Cpu) : (b.decS).c = b.c := rfl
@[simp] theorem decS_x (b : Cpu) : (b.decS).x = b.x := rfl
@[simp] theorem decS_y (b : Cpu) : (b.decS).y = b.y := rfl
@[simp] theorem decS_s (b : Cpu) : (b.decS).s = if b.e then mkWord 0x01 (lo b.s - 1) else b.s - 1 := rfl
@[simp] theorem decS_d (b : Cpu) : (b.decS).d = b.d := rfl
@[simp] theorem decS_pc (b : Cpu) : (b.decS).pc = b.pc := rfl
@[simp] theorem decS_pbr (b : Cpu) : (b.decS).pbr = b.pbr := rfl
@[simp] theorem decS_dbr (b : Cpu) : (b.decS).dbr = b.dbr := rfl
@[simp] theorem decS_p (b : Cpu) : (b.decS).p = b.p := rfl
@[simp] theorem decS_e (b : Cpu) : (b.decS).e = b.e := rfl
@[simp] theorem decS_cycles (b : Cpu) : (b.decS).cycles = b.cycles := rfl
@[simp] theorem decS_pending (b : Cpu) : (b.decS).pending = b.pending := rfl
@[simp] theorem decS_waiting (b : Cpu) : (b.decS).waiting = b.waiting := rfl
@[simp] theorem decS_stopped (b : Cpu) : (b.decS).stopped = b.stopped := rfl

/-! ## Cpu.incS -/

@[simp] theorem incS_c (b : Cpu) : (b.incS).c = b.c := rfl
@[simp] theorem incS_x (b : Cpu) : (b.incS).x = b.x := rfl
@[simp] theorem incS_y (b : Cpu) : (b.incS).y = b.y := rfl
@[simp] theorem incS_s (b : Cpu) : (b.incS).s = if b.e then mkWord 0x01 (lo b.s + 1) else b.s + 1 := rfl
@[simp] theorem incS_d (b : Cpu) : (b.incS).d = b.d := rfl
@[simp] theorem incS_pc (b : Cpu) : (b.incS).pc = b.pc := rfl
@[simp] theorem incS_pbr (b : Cpu) : (b.incS).pbr = b.pbr := rfl
@[simp] theorem incS_dbr (b : Cpu) : (b.incS).dbr = b.dbr := rfl
@[simp] theorem incS_p (b : Cpu) : (b.incS).p = b.p := rfl
@[simp] theorem incS_e (b : Cpu) : (b.incS).e = b.e := rfl
@[simp] theorem incS_cycles (b : Cpu) : (b.incS).cycles = b.cycles := rfl
@[simp] theorem incS_pending (b : Cpu) : (b.incS).pending = b.pending := rfl
@[simp] theorem incS_waiting (b : Cpu) : (b.incS).waiting = b.waiting := rfl
@[simp] theorem incS_stopped (b : Cpu) : (b.incS).stopped = b.stopped := rfl

/-! ## Cpu.setS -/

@[simp] theorem setS_c (v : Word) (b : Cpu) : (b.setS v).c = b.c := rfl
@[simp] theorem setS_x (v : Word) (b : Cpu) : (b.setS v).x = b.x := rfl
@[simp] theorem setS_y (v : Word) (b : Cpu) : (b.setS v).y = b.y := rfl
@[simp] theorem setS_s (v : Word) (b : Cpu) : (b.setS v).s = if b.e then mkWord 0x01 (lo v) else v := rfl
@[simp] theorem setS_d (v : Word) (b : Cpu) : (b.setS v).d = b.d := rfl
@[simp] theorem setS_pc (v : Word) (b : Cpu) : (b.setS v).pc = b.pc := rfl
@[simp] theorem setS_pbr (v : Word) (b : Cpu) : (b.setS v).pbr = b.pbr := rfl
@[simp] theorem setS_dbr (v : Word) (b : Cpu) : (b.setS v).dbr = b.dbr := rfl
@[simp] theorem setS_p (v : Word) (b : Cpu) : (b.setS v).p = b.p := rfl
@[simp] theorem setS_e (v : Word) (b : Cpu) : (b.setS v).e = b.e := rfl
@[simp] theorem setS_cycles (v : Word) (b : Cpu) : (b.setS v).cycles = b.cycles := rfl
@[simp] theorem setS_pending (v : Word) (b : Cpu) : (b.setS v).pending = b.pending := rfl
@[simp] theorem setS_waiting (v : Word) (b : Cpu) : (b.setS v).waiting = b.waiting := rfl
@[simp] theorem setS_stopped (v : Word) (b : Cpu) : (b.setS v).stopped = b.stopped := rfl

end Sys2Proof.Laws
end

