-- ==== Sys2Proof/Laws/Monad.lean ====
section
/-!
SUPPORT. Running the main side's operations: what each building block answers, and how a property of the state is carried
through a sequence of operations.
-/

namespace Sys2Proof.Laws

open Sys2Proof Sys2Proof.Machine

variable {α β : Type}

/-! ## Building blocks -/

@[simp] theorem getCpu_run (s : State) : getCpu.run s = .ok s.cpu s := rfl

@[simp] theorem onCpu_run (f : Cpu → Cpu) (s : State) : (onCpu f).run s = .ok () (s.onCpu f) := rfl

@[simp] theorem draw_run (s : State) : draw.run s = .ok (Config.hostInput s.draws) s.bumpDraws := rfl

@[simp] theorem raise_run (f : Fatal) (s : State) : (raise f : M α).run s = .error (.fatal f) s := rfl

@[simp] theorem addMaster_run (n : Nat) (s : State) :
    (addMaster n).run s = .ok () (s.onSched fun q => { q with master := q.master + n }) := rfl

@[simp] theorem pushEvent_run (k : EventKind) (t : Nat) (s : State) :
    (pushEvent k t).run s = .ok () (s.onSched (·.push k t)) := rfl

/-- A sequence goes on from where its first part ended. -/
theorem bind_ok {x : M α} {f : α → M β} {s t : State} {a : α} (h : x.run s = .ok a t) :
    (x >>= f).run s = (f a).run t := by
  rw [EStateM.run_bind, h]

/-- A sequence that ends went through both of its parts. -/
theorem ok_of_bind {x : M α} {f : α → M β} {s u : State} {b : β} (h : (x >>= f).run s = .ok b u) :
    ∃ a t, x.run s = .ok a t ∧ (f a).run t = .ok b u := by
  rw [EStateM.run_bind] at h
  split at h
  · exact ⟨_, _, ‹_›, h⟩
  · cases h

/-- An operation's body ran to its end: the cost is charged and the machine goes on. -/
theorem runInstr_ok {i : Instr} {body : M Facts} {s t : State} {f : Facts} (h : body.run s = .ok f t) :
    runInstr i body s = .next (t.onCpu (Cpu.charge (instrCost s.cfg i s.cpu f))) := by
  simp only [runInstr]
  rw [bind_ok h]
  rfl

/-- An operation's body stopped on a fatal condition: the final state keeps its partial effects (R830). -/
theorem runInstr_fatal {i : Instr} {body : M Facts} {s t : State} {why : Fatal}
    (h : body.run s = .error (.fatal why) t) : runInstr i body s = .fault (.fatal why (t.setFatal why)) := by
  simp only [runInstr, EStateM.run_bind, h, outcomeOf]

/-- What a completed instruction did: its body ran to its end and the cost was charged. -/
theorem of_runInstr_next {i : Instr} {body : M Facts} {s u : State} (h : runInstr i body s = .next u) :
    ∃ f t, body.run s = .ok f t ∧ u = t.onCpu (Cpu.charge (instrCost s.cfg i s.cpu f)) := by
  simp only [runInstr] at h
  cases hb : body.run s with
  | ok f t =>
    rw [bind_ok hb] at h
    simp only [onCpu_run, outcomeOf, Host.Outcome.next.injEq] at h
    exact ⟨f, t, rfl, h.symm⟩
  | error e t => simp [EStateM.run_bind, hb, outcomeOf] at h; cases e <;> simp_all

/-- A register instruction completes in every state. -/
theorem regInstr_next (i : Instr) (f : Cpu → Cpu) (s : State) :
    regInstr i f s = .next (s.onCpu fun b => Cpu.charge (instrCost s.cfg i b Facts.plain) (f b)) := rfl

/-! ## Carrying a property of the state through an operation -/

/-- Every completed run of `x` keeps `P`. -/
def Keeps (P : State → Prop) (x : M α) : Prop := ∀ s a t, P s → x.run s = .ok a t → P t

theorem Keeps.pure {P : State → Prop} (a : α) : Keeps P (Pure.pure a : M α) := by
  intro s b t hs h
  cases h
  exact hs

theorem Keeps.raise {P : State → Prop} (f : Fatal) : Keeps P (Machine.raise f : M α) := by
  intro s b t hs h
  cases h

theorem Keeps.throw {P : State → Prop} (e : Stop) : Keeps P (MonadExcept.throw e : M α) := by
  intro s b t hs h
  cases h

theorem Keeps.bind {P : State → Prop} {x : M α} {f : α → M β} (hx : Keeps P x) (hf : ∀ a, Keeps P (f a)) :
    Keeps P (x >>= f) := by
  intro s b u hs h
  obtain ⟨a, t, h1, h2⟩ := ok_of_bind h
  exact hf a t b u (hx s a t hs h1) h2

theorem Keeps.get_bind {P : State → Prop} {f : State → M β} (hf : ∀ v, P v → Keeps P (f v)) : Keeps P (get >>= f) := by
  intro s b u hs h
  exact hf s hs s b u hs h

theorem Keeps.get {P : State → Prop} : Keeps P (MonadState.get : M State) := by
  intro s b u hs h
  cases h
  exact hs

theorem Keeps.getCpu {P : State → Prop} : Keeps P Machine.getCpu := by
  intro s b u hs h
  cases h
  exact hs

theorem Keeps.set {P : State → Prop} {v : State} (h : P v) : Keeps P (MonadStateOf.set v : M Unit) := by
  intro s b u _ h'
  cases h'
  exact h

theorem Keeps.modify {P : State → Prop} {f : State → State} (h : ∀ s, P s → P (f s)) :
    Keeps P (modify f : M Unit) := by
  intro s b u hs h'
  cases h'
  exact h s hs

theorem Keeps.onCpu {P : State → Prop} {f : Cpu → Cpu} (h : ∀ s, P s → P (s.onCpu f)) : Keeps P (Machine.onCpu f) :=
  Keeps.modify h

theorem Keeps.draw {P : State → Prop} (h : ∀ s, P s → P s.bumpDraws) : Keeps P Machine.draw := by
  intro s b u hs h'
  cases h'
  exact h s hs

theorem Keeps.ite {P : State → Prop} {c : Prop} [Decidable c] {x y : M α} (hx : c → Keeps P x) (hy : ¬c → Keeps P y) :
    Keeps P (if c then x else y) := by
  split
  · exact hx ‹_›
  · exact hy ‹_›

end Sys2Proof.Laws
end

