-- ==== Sys2Proof/Laws/Bus.lean ====
section
/-!
SUPPORT. What a bus access can do, said once: it never touches the main CPU, the parameters, the line counter or the fatal
state, never turns the clock back, and keeps the invariant of the machine around the CPU. Beside it, accesses to mapped
addresses, which have no effect but the byte they read or store.
-/

namespace Sys2Proof.Laws

open Sys2Proof Sys2Proof.Machine

variable {α β : Type}

/-! ## The queue -/

theorem before_trans {a b c : Event} (h1 : a.before b = true) (h2 : b.before c = true) : a.before c = true := by
  simp only [Event.before, Bool.or_eq_true, decide_eq_true_eq, Bool.and_eq_true] at *
  omega

theorem before_total {a b : Event} (h : a.seq ≠ b.seq) (hn : ¬a.before b = true) : b.before a = true := by
  simp only [Event.before, Bool.or_eq_true, decide_eq_true_eq, Bool.and_eq_true] at *
  omega

theorem mem_insertEvent {e x : Event} {q : List Event} : x ∈ insertEvent e q ↔ x = e ∨ x ∈ q := by
  induction q with
  | nil => simp [insertEvent]
  | cons y ys ih =>
    simp only [insertEvent]
    split_ifs
    · simp
    · simp only [List.mem_cons, ih]
      tauto

/-- A new event keeps the queue in order. -/
theorem insertEvent_pairwise {e : Event} {q : List Event} (hq : q.Pairwise fun a b => a.before b = true)
    (hs : ∀ x ∈ q, x.seq < e.seq) : (insertEvent e q).Pairwise fun a b => a.before b = true := by
  induction q with
  | nil => simp [insertEvent]
  | cons y ys ih =>
    rw [List.pairwise_cons] at hq
    simp only [insertEvent]
    split_ifs with h
    · refine List.pairwise_cons.2 ⟨fun x hx => ?_, List.pairwise_cons.2 hq⟩
      rcases List.mem_cons.1 hx with rfl | hx
      · exact h
      · exact before_trans h (hq.1 x hx)
    · refine List.pairwise_cons.2 ⟨fun x hx => ?_, ih hq.2 fun x hx => hs x (List.mem_cons_of_mem _ hx)⟩
      rcases mem_insertEvent.1 hx with rfl | hx
      · exact before_total (Ne.symm (Nat.ne_of_lt (hs y List.mem_cons_self))) h
      · exact hq.1 x hx

/-- The queue of power-on and of a full reset holds the two events in order, wherever the HBLANK falls. -/
theorem startQueue_spec (ts : Nat) : StartQueue ts (startQueue ts) := by
  have hp : (startQueue ts).Perm [⟨.hblank, ts, 0⟩, ⟨.sentinel, sentinelTs, 1⟩] := by
    unfold startQueue insertEvent
    split
    · exact List.Perm.swap _ _ _
    · rfl
  exact ⟨insertEvent_pairwise (List.pairwise_singleton _ _) (by simp), 0, 1, hp⟩

/-- A new event that a filter drops leaves what the filter gives of the queue. -/
theorem filter_insertEvent_other {p : Event → Bool} {e : Event} (h : p e = false) (q : List Event) :
    (insertEvent e q).filter p = q.filter p := by
  induction q with
  | nil => simp [insertEvent, h]
  | cons y ys ih =>
    simp only [insertEvent]
    split_ifs
    · rw [List.filter_cons_of_neg (by simp [h])]
    · rw [List.filter_cons, List.filter_cons, ih]

/-- A new event that a filter keeps, where it keeps nothing of the queue. -/
theorem filter_insertEvent_only {p : Event → Bool} {e : Event} (h : p e = true) {q : List Event} (hq : q.filter p = []) :
    (insertEvent e q).filter p = [e] := by
  induction q with
  | nil => simp [insertEvent, h]
  | cons y ys ih =>
    have hy : p y = false := by
      by_contra hy
      rw [List.filter_cons_of_pos (by simpa using hy)] at hq
      cases hq
    rw [List.filter_cons_of_neg (by simp [hy])] at hq
    simp only [insertEvent]
    split_ifs
    · rw [List.filter_cons_of_pos h, List.filter_cons_of_neg (by simp [hy]), hq]
    · rw [List.filter_cons_of_neg (by simp [hy]), ih hq]

/-! ## The relation of a bus access -/

/-- What every bus access leaves as it was, and what it keeps. -/
structure BusRel (s t : State) : Prop where
  cpu       : t.cpu = s.cpu
  cfg       : t.cfg = s.cfg
  fatal     : t.fatal = s.fatal
  resetDone : t.resetDone = s.resetDone
  vline     : t.sched.vline = s.sched.vline
  frame     : t.sched.frameComplete = s.sched.frameComplete
  line      : t.lineState = s.lineState
  master    : s.sched.master ≤ t.sched.master
  dev       : s.DevInv → t.DevInv

theorem BusRel.refl (s : State) : BusRel s s := ⟨rfl, rfl, rfl, rfl, rfl, rfl, rfl, Nat.le_refl _, id⟩

theorem BusRel.trans {s t u : State} (h : BusRel s t) (h' : BusRel t u) : BusRel s u :=
  ⟨h'.cpu.trans h.cpu, h'.cfg.trans h.cfg, h'.fatal.trans h.fatal, h'.resetDone.trans h.resetDone, h'.vline.trans h.vline,
    h'.frame.trans h.frame, h'.line.trans h.line, Nat.le_trans h.master h'.master, h'.dev ∘ h.dev⟩

/-- An operation whose every completed run is a bus access's. -/
def IsBus (x : M α) : Prop := ∀ s a t, x.run s = .ok a t → BusRel s t

theorem IsBus.of_keeps {x : M α} (h : ∀ s, Keeps (BusRel s) x) : IsBus x :=
  fun s a t hx => h s s a t (BusRel.refl s) hx

theorem IsBus.keeps {x : M α} (h : IsBus x) (s : State) : Keeps (BusRel s) x :=
  fun _ a t hs hx => hs.trans (h _ a t hx)

theorem IsBus.pure (a : α) : IsBus (Pure.pure a : M α) := .of_keeps fun _ => .pure a

theorem IsBus.raise (f : Fatal) : IsBus (Machine.raise f : M α) := .of_keeps fun _ => .raise f

theorem IsBus.bind {x : M α} {f : α → M β} (hx : IsBus x) (hf : ∀ a, IsBus (f a)) : IsBus (x >>= f) :=
  .of_keeps fun s => .bind (hx.keeps s) fun a => (hf a).keeps s

/-- An operation that reads the state first: what follows may depend on the state read. -/
theorem IsBus.get_bind {f : State → M β} (hf : ∀ s a t, (f s).run s = .ok a t → BusRel s t) : IsBus (get >>= f) :=
  fun s a t h => hf s a t h

theorem IsBus.get_bind' {f : State → M β} (hf : ∀ s, IsBus (f s)) : IsBus (get >>= f) :=
  fun s a t h => hf s s a t h

theorem IsBus.modify {f : State → State} (h : ∀ s, BusRel s (f s)) : IsBus (modify f : M Unit) := by
  intro s a t ht
  cases ht
  exact h s

theorem IsBus.ite {c : Prop} [Decidable c] {x y : M α} (hx : c → IsBus x) (hy : ¬c → IsBus y) :
    IsBus (if c then x else y) := by
  split
  · exact hx ‹_›
  · exact hy ‹_›

/-- An update outside the CPU, the parameters, the clock, the line state and the fatal state is a bus access's if it keeps
the invariant. -/
theorem BusRel.of_dev {s t : State} (h1 : t.cpu = s.cpu) (h2 : t.cfg = s.cfg) (h3 : t.fatal = s.fatal)
    (h4 : t.resetDone = s.resetDone) (h5 : t.sched = s.sched) (h6 : t.io.hblank = s.io.hblank)
    (h : s.DevInv → t.DevInv) : BusRel s t :=
  ⟨h1, h2, h3, h4, by rw [h5], by rw [h5], by rw [State.lineState, State.lineState, h5, h6], by rw [h5], h⟩

/-! ## The memory form, part by part -/

theorem memory_wf_iff {s : State} : Memory.wf s = true ↔
    Cells.wf 0 0x20000 s.wram = true ∧ Cells.wf 0 s.cfg.sramSize s.sram = true ∧ AudioOk s.apu ∧
      Cells.wf 0 0x8000 s.ppu.vram = true ∧ Cells.wf 0 0x100 s.ppu.cgram = true ∧ Cells.wf 0 544 s.ppu.oam = true ∧
      Cells.wf 0 0x80 s.dma = true ∧ Cells.wf blankRow 224 s.ppu.fb0 = true ∧ Cells.wf blankRow 224 s.ppu.fb1 = true := by
  simp only [Memory.wf, AudioOk, Bool.and_eq_true]
  tauto

/-- The PPU's part of the invariant. -/
structure PpuOk (u : Ppu) : Prop where
  vram   : Cells.wf 0 0x8000 u.vram = true
  cgram  : Cells.wf 0 0x100 u.cgram = true
  oam    : Cells.wf 0 544 u.oam = true
  fb0    : Cells.wf blankRow 224 u.fb0 = true
  fb1    : Cells.wf blankRow 224 u.fb1 = true
  oamptr : u.oamptr.toNat < 544
  line   : u.line.length = 256
  rows   : ∀ p ∈ u.fb0 ++ u.fb1, p.2.length = 256

theorem DevInv.ppuOk {s : State} (h : s.DevInv) : PpuOk s.ppu := by
  have hm := memory_wf_iff.1 h.memory
  exact ⟨hm.2.2.2.1, hm.2.2.2.2.1, hm.2.2.2.2.2.1, hm.2.2.2.2.2.2.2.1, hm.2.2.2.2.2.2.2.2, h.oamptr, h.line, h.rows⟩

/-- A change of the PPU that keeps its part keeps the invariant. -/
theorem DevInv.onPpu {s : State} {f : Ppu → Ppu} (h : s.DevInv) (hf : PpuOk s.ppu → PpuOk (f s.ppu)) :
    (s.onPpu f).DevInv := by
  have hm := memory_wf_iff.1 h.memory
  have hp := hf (DevInv.ppuOk h)
  exact
    { memory := memory_wf_iff.2 ⟨hm.1, hm.2.1, hm.2.2.1, hp.vram, hp.cgram, hp.oam, hm.2.2.2.2.2.2.1, hp.fb0, hp.fb1⟩
      oamptr := hp.oamptr, line := hp.line, rows := hp.rows
      vline := h.vline, vblank := h.vblank, rdnmi := h.rdnmi, irq := h.irq
      queue := h.queue, fresh := h.fresh, sentinel := h.sentinel }

/-- A change of the audio subsystem that keeps its memories' form keeps the invariant. -/
theorem DevInv.setApu {s : State} {u : Apu} (h : s.DevInv) (hu : AudioOk s.apu → AudioOk u) :
    State.DevInv { s with apu := u } := by
  have hm := memory_wf_iff.1 h.memory
  exact { h with
    memory := memory_wf_iff.2 ⟨hm.1, hm.2.1, hu hm.2.2.1, hm.2.2.2⟩ }

theorem DevInv.onWram {s : State} {f : Cells Byte → Cells Byte} (h : s.DevInv)
    (hf : Cells.wf 0 0x20000 s.wram = true → Cells.wf 0 0x20000 (f s.wram) = true) : (s.onWram f).DevInv := by
  have hm := memory_wf_iff.1 h.memory
  exact { h with memory := memory_wf_iff.2 ⟨hf hm.1, hm.2⟩ }

theorem DevInv.onSram {s : State} {f : Cells Byte → Cells Byte} (h : s.DevInv)
    (hf : Cells.wf 0 s.cfg.sramSize s.sram = true → Cells.wf 0 s.cfg.sramSize (f s.sram) = true) : (s.onSram f).DevInv := by
  have hm := memory_wf_iff.1 h.memory
  exact { h with memory := memory_wf_iff.2 ⟨hm.1, hf hm.2.1, hm.2.2⟩ }

theorem DevInv.onDma {s : State} {f : Cells Byte → Cells Byte} (h : s.DevInv)
    (hf : Cells.wf 0 0x80 s.dma = true → Cells.wf 0 0x80 (f s.dma) = true) : (s.onDma f).DevInv := by
  have hm := memory_wf_iff.1 h.memory
  exact { h with
    memory := memory_wf_iff.2 ⟨hm.1, hm.2.1, hm.2.2.1, hm.2.2.2.1, hm.2.2.2.2.1, hm.2.2.2.2.2.1, hf hm.2.2.2.2.2.2.1,
      hm.2.2.2.2.2.2.2⟩ }

/-- A new event other than a sentinel keeps the invariant. -/
theorem DevInv.push {s : State} (k : EventKind) (t : Nat) (hk : k ≠ .sentinel) (h : s.DevInv) :
    (s.onSched (·.push k t)).DevInv := by
  refine { h with queue := insertEvent_pairwise h.queue h.fresh, fresh := ?_, sentinel := ?_ }
  · intro e he
    rcases mem_insertEvent.1 he with rfl | he
    · exact Nat.lt_succ_self _
    · exact Nat.lt_succ_of_lt (h.fresh e he)
  · exact (congrArg _ (filter_insertEvent_other (by simpa using hk) _)).trans h.sentinel

/-! ## The PPU's register writes -/

theorem oamPtrOf_lt (a : BitVec 9) : (oamPtrOf a).toNat < 544 := by
  simp only [oamPtrOf, BitVec.toNat_ofNat]
  split_ifs <;> omega

theorem PpuOk.oamData {u : Ppu} (v : Byte) (h : PpuOk u) : PpuOk (writeOamData v u) := by
  refine { h with oam := write_wf h.oamptr h.oam, oamptr := ?_ }
  simp only [writeOamData, BitVec.toNat_ofNat]
  omega

/-- Every PPU register write keeps the PPU's part of the invariant. -/
theorem ppuWrite_ok {off : Nat} {v : Byte} {f : Ppu → Ppu} (h : ppuWrite? off v = some f) {u : Ppu} (hu : PpuOk u) :
    PpuOk (f u) := by
  have hv : u.vaddr.toNat < 0x8000 := u.vaddr.isLt
  have hc : u.cgaddr.toNat < 0x100 := u.cgaddr.isLt
  unfold ppuWrite? at h
  split at h <;> (try simp only [reduceCtorEq, Option.some.injEq] at h) <;> (try subst h)
  case h_3 => exact { hu with oamptr := oamPtrOf_lt _ }
  case h_4 => exact { hu with oamptr := oamPtrOf_lt _ }
  case h_5 => exact hu.oamData v
  case h_25 => exact { hu with vram := write_wf hv hu.vram }
  case h_26 => exact { hu with vram := write_wf hv hu.vram }
  case h_35 =>
    unfold writeCgData
    split_ifs
    · exact { hu with cgram := write_wf hc hu.cgram }
    · exact { hu with }
  all_goals exact { hu with }

/-! ## The operations of the bus -/

theorem draw_isBus : IsBus draw := by
  intro s a t h
  cases h
  exact ⟨rfl, rfl, rfl, rfl, rfl, rfl, rfl, Nat.le_refl _, fun h => { h with }⟩

theorem catchUp_isBus : IsBus catchUp := by
  intro s a t h
  have hk := audioRun_audioOk s.cfg (audioTarget s.cfg s.apu s.sched.master)
    (audioFuel (audioTarget s.cfg s.apu s.sched.master) s.apu) (u := s.apu)
  simp only [catchUp, EStateM.run_bind, EStateM.run_get, EStateM.run_set] at h
  generalize audioRun s.cfg (audioTarget s.cfg s.apu s.sched.master)
    (audioFuel (audioTarget s.cfg s.apu s.sched.master) s.apu) s.apu = r at h hk
  obtain ⟨u, stop⟩ := r
  cases stop with
  | none =>
    cases h
    exact BusRel.of_dev rfl rfl rfl rfl rfl rfl fun hd => DevInv.setApu hd hk
  | some e => cases h

theorem portRead_isBus (off : Nat) : IsBus (portRead off) :=
  IsBus.bind catchUp_isBus fun _ => IsBus.get_bind' fun _ => IsBus.pure _

theorem portWrite_isBus (off : Nat) (v : Byte) : IsBus (portWrite off v) :=
  IsBus.bind catchUp_isBus fun _ => IsBus.modify fun _ =>
    BusRel.of_dev rfl rfl rfl rfl rfl rfl fun hd => DevInv.setApu hd id

theorem setWmadd_rel (v : BitVec 17) (s : State) : BusRel s (s.setWmadd v) :=
  BusRel.of_dev rfl rfl rfl rfl rfl rfl fun hd => { hd with }

theorem wmdataRead_isBus : IsBus wmdataRead := by
  intro s a t h
  cases h
  exact setWmadd_rel _ s

theorem wmdataWrite_isBus (v : Byte) : IsBus (wmdataWrite v) :=
  IsBus.modify fun s => BusRel.of_dev rfl rfl rfl rfl rfl rfl fun hd =>
    (setWmadd_rel _ _).dev (DevInv.onWram hd (write_wf s.wmadd.isLt))

theorem bbusRead_isBus (a : Addr) : IsBus (bbusRead a) := by
  unfold bbusRead
  dsimp only
  split_ifs <;> first
    | with_reducible exact draw_isBus
    | with_reducible exact portRead_isBus _
    | with_reducible exact wmdataRead_isBus
    | with_reducible exact IsBus.raise _
    | exact IsBus.get_bind' fun _ => IsBus.pure _

theorem bbusWrite_isBus (a : Addr) (v : Byte) : IsBus (bbusWrite a v) := by
  unfold bbusWrite
  dsimp only
  split
  · rename_i f hf
    exact IsBus.modify fun s => BusRel.of_dev rfl rfl rfl rfl rfl rfl fun hd =>
      have hp : (s.onPpu f).DevInv := DevInv.onPpu hd (ppuWrite_ok hf)
      { hp with }
  · split_ifs <;> first
      | with_reducible exact IsBus.pure _
      | with_reducible exact portWrite_isBus _ _
      | with_reducible exact wmdataWrite_isBus _
      | with_reducible exact IsBus.raise _
      | exact IsBus.modify fun s => setWmadd_rel _ s

/-- Cartridge RAM is mapped only where there is some (R222, R223). -/
theorem sramSize_pos {cfg : Config} {r : MapRow} (hr : r ∈ mapRows cfg) (hs : r.region = .sram) : 0 < cfg.sramSize := by
  by_contra hz
  have hz : ¬cfg.sramSize > 0 := hz
  simp only [mapRows, List.mem_append] at hr
  rcases hr with hr | hr
  · simp only [commonMap, List.mem_cons, List.not_mem_nil, or_false] at hr
    rcases hr with rfl | rfl | rfl <;> cases hs
  · split at hr
    · simp only [if_neg hz, loRomMap, List.append_nil, List.mem_cons, List.not_mem_nil, or_false] at hr
      rcases hr with rfl | rfl <;> cases hs
    · simp only [if_neg hz, hiRomMap, List.append_nil, List.mem_cons, List.not_mem_nil, or_false] at hr
      rcases hr with rfl | rfl | rfl | rfl <;> cases hs
    · simp [hs] at hr
      omega

/-- A mapped address's index lies inside its region, but for a ROM of no bytes. -/
theorem rpage_index {cfg : Config} {a : Addr} {r : Region} {i : Nat} (h : rpage cfg a = some (r, i)) (hr : r ≠ .rom) :
    i < regionSize cfg r := by
  simp only [rpage] at h
  split_ifs at h
  rw [Option.map_eq_some_iff] at h
  obtain ⟨row, hrow, heq⟩ := h
  cases heq
  refine Nat.mod_lt _ ?_
  cases hreg : row.region with
  | rom => exact absurd hreg hr
  | wram => simp [regionSize]
  | sram => exact sramSize_pos (List.mem_of_find?_eq_some hrow) hreg

theorem wpage_rpage {cfg : Config} {a : Addr} {p : Region × Nat} (h : wpage cfg a = some p) :
    rpage cfg a = some p ∧ p.1 ≠ .rom := by
  simp only [wpage, Option.filter_eq_some_iff, decide_eq_true_eq] at h
  exact h

/-- A byte stored at a writable address is a bus access. -/
theorem regionWrite_rel {s : State} {a : Addr} {p : Region × Nat} (h : wpage s.cfg a = some p) (v : Byte) :
    BusRel s (regionWrite p.1 p.2 v s) := by
  obtain ⟨hp, hr⟩ := wpage_rpage h
  have hi := rpage_index (r := p.1) (i := p.2) hp hr
  obtain ⟨r, i⟩ := p
  cases r with
  | rom => exact BusRel.refl s
  | wram => exact BusRel.of_dev rfl rfl rfl rfl rfl rfl fun hd => DevInv.onWram hd (write_wf hi)
  | sram => exact BusRel.of_dev rfl rfl rfl rfl rfl rfl fun hd => DevInv.onSram hd (write_wf hi)

/-! ## DMA -/

theorem setDmaByte_rel {c k : Nat} (h : 16 * c + k < 0x80) (v : Byte) (s : State) : BusRel s (setDmaByte c k v s) :=
  BusRel.of_dev rfl rfl rfl rfl rfl rfl fun hd => DevInv.onDma hd (write_wf h)

theorem abusRead_isBus (c : Nat) (a : Addr) : IsBus (abusRead c a) := by
  intro s b t h
  simp only [abusRead, EStateM.run_bind, EStateM.run_get] at h
  split at h <;> cases h
  exact BusRel.refl s

theorem abusWrite_isBus (c : Nat) (a : Addr) (v : Byte) : IsBus (abusWrite c a v) := by
  refine IsBus.get_bind fun _ b t h => ?_
  split at h
  · cases h
    exact regionWrite_rel ‹_› v
  · cases h

theorem dmaMove_isBus (c : Nat) (dir : Bool) (a b : Addr) : IsBus (dmaMove c dir a b) := by
  have hmove : IsBus (if dir = true then do
        let v ← bbusRead b
        abusWrite c a v
      else do
        let v ← abusRead c a
        bbusWrite b v) :=
    IsBus.ite (fun _ => IsBus.bind (bbusRead_isBus b) fun _ => abusWrite_isBus c a _) fun _ =>
      IsBus.bind (abusRead_isBus c a) fun _ => bbusWrite_isBus b _
  refine IsBus.get_bind' fun s => ?_
  exact IsBus.ite (fun _ => IsBus.bind (IsBus.raise _) fun _ => hmove) fun _ => hmove

theorem dmaLoop_isBus (c : Nat) (ch : DmaChannel) (n k : Nat) (off : Word) : IsBus (dmaLoop c ch n k off) := by
  induction n generalizing k off with
  | zero => exact IsBus.pure _
  | succ n ih => exact IsBus.bind (dmaMove_isBus c _ _ _) fun _ => ih _ _

theorem addMaster_isBus (n : Nat) : IsBus (addMaster n) :=
  IsBus.modify fun _ => ⟨rfl, rfl, rfl, rfl, rfl, rfl, rfl, Nat.le_add_right _ _, fun hd => { hd with }⟩

theorem runDma_isBus {c : Nat} (hc : c < 8) : IsBus (runDma c) := by
  refine IsBus.get_bind' fun s => ?_
  have hrest : IsBus (do
      let off ← dmaLoop c (dmaChannel s c) (dmaCount (dmaChannel s c).count) 0 (dmaChannel s c).aaddr
      modify fun s => setDmaByte c 6 0 (setDmaByte c 5 0 (setDmaByte c 3 (hi off) (setDmaByte c 2 (lo off) s)))
      addMaster (dmaMaster s.cfg (dmaCount (dmaChannel s c).count))) :=
    IsBus.bind (dmaLoop_isBus c _ _ _ _) fun off => IsBus.bind
      (IsBus.modify fun u => ((((setDmaByte_rel (by omega) _ _).trans (setDmaByte_rel (by omega) _ _)).trans
        (setDmaByte_rel (by omega) _ _)).trans (setDmaByte_rel (by omega) _ _))) fun _ => addMaster_isBus _
  exact IsBus.ite (fun _ => IsBus.bind (IsBus.raise _) fun _ => hrest) fun _ => hrest

theorem runDmas_isBus (v : Byte) {cs : List Nat} (h : ∀ c ∈ cs, c < 8) : IsBus (runDmas v cs) := by
  induction cs with
  | nil => exact IsBus.pure _
  | cons c cs ih =>
    have ht := ih fun x hx => h x (List.mem_cons_of_mem _ hx)
    exact IsBus.ite (fun _ => IsBus.bind (runDma_isBus (h c List.mem_cons_self)) fun _ => ht) fun _ => ht

theorem writeMdmaen_isBus (v : Byte) : IsBus (writeMdmaen v) := runDmas_isBus v (by decide)

/-! ## The interrupt controller and the CPU I/O registers -/

/-- A change of the CPU I/O registers that keeps VBlank, HBlank and the IRQ line, and sets the NMI flag no more than before. -/
theorem onIo_rel {s : State} {f : IoRegs → IoRegs} (h1 : (f s.io).vblank = s.io.vblank)
    (h2 : (f s.io).irqLine = s.io.irqLine) (h4 : (f s.io).hblank = s.io.hblank) (h3 : (f s.io).rdnmiFlag = true → s.io.rdnmiFlag = true) :
    BusRel s (s.onIo f) :=
  BusRel.of_dev rfl rfl rfl rfl rfl h4 fun hd =>
    { hd with vblank := h1.trans hd.vblank, rdnmi := fun h => h1.trans (hd.rdnmi (h3 h)), irq := h2.trans hd.irq }

theorem onMath_rel (f : MathUnit → MathUnit) (s : State) : BusRel s (s.onMath f) :=
  BusRel.of_dev rfl rfl rfl rfl rfl rfl fun hd => { hd with }

/-- An NMI request is no line event. -/
theorem pushNmi_isBus (t : Nat) : IsBus (pushEvent .assertNmi t) :=
  IsBus.modify fun s => ⟨rfl, rfl, rfl, rfl, rfl, rfl,
    by simp [State.lineState, Sched.push, filter_insertEvent_other, EventKind.isLine], Nat.le_refl _, DevInv.push _ t (by decide)⟩

theorem writeNmitimen_isBus (v : Byte) : IsBus (writeNmitimen v) := by
  intro s a t h
  have hset : BusRel s ((s.onIo fun r =>
      { r with nmiEn := v.getLsbD 7, virqEn := v.getLsbD 5, hirqEn := v.getLsbD 4, autojoy := v.getLsbD 0 }).onMarks
        fun m => { m with hvIrq := m.hvIrq || v.getLsbD 5 || v.getLsbD 4 }) :=
    BusRel.of_dev rfl rfl rfl rfl rfl rfl fun hd => { hd with }
  simp only [writeNmitimen, EStateM.run_bind, EStateM.run_get, EStateM.run_set] at h
  split at h
  · exact hset.trans (pushNmi_isBus _ _ _ _ h)
  · cases h
    exact hset

theorem readRdnmi_isBus : IsBus readRdnmi := by
  intro s a t h
  cases h
  exact (draw_isBus s _ _ rfl).trans (onIo_rel rfl rfl rfl (by simp))

theorem readTimeup_isBus : IsBus readTimeup := IsBus.bind draw_isBus fun _ => IsBus.pure _

theorem readHvbjoy_isBus : IsBus readHvbjoy :=
  IsBus.bind draw_isBus fun _ => IsBus.get_bind' fun _ => IsBus.pure _

theorem writeHdmaen_isBus (v : Byte) : IsBus (writeHdmaen v) := by
  refine IsBus.bind (IsBus.modify fun s => BusRel.of_dev rfl rfl rfl rfl rfl rfl fun hd => { hd with }) fun _ => ?_
  exact IsBus.ite (fun _ => IsBus.raise _) fun _ => IsBus.pure _

theorem ioRead_isBus (a : Addr) : IsBus (ioRead a) := by
  unfold ioRead
  dsimp only
  repeat' with_reducible refine IsBus.ite (fun _ => ?_) fun _ => ?_
  all_goals first
    | with_reducible exact IsBus.raise _
    | with_reducible exact bbusRead_isBus _
    | with_reducible exact draw_isBus
    | with_reducible exact readRdnmi_isBus
    | with_reducible exact readTimeup_isBus
    | with_reducible exact readHvbjoy_isBus
    | exact IsBus.get_bind' fun _ => IsBus.pure _

theorem ioWrite_isBus (a : Addr) (v : Byte) : IsBus (ioWrite a v) := by
  unfold ioWrite
  dsimp only
  repeat' with_reducible refine IsBus.ite (fun _ => ?_) fun _ => ?_
  all_goals first
    | with_reducible exact IsBus.raise _
    | with_reducible exact IsBus.pure _
    | with_reducible exact bbusWrite_isBus _ _
    | with_reducible exact writeNmitimen_isBus _
    | with_reducible exact writeMdmaen_isBus _
    | with_reducible exact writeHdmaen_isBus _
    | exact IsBus.modify fun s => onMath_rel _ s
    | exact IsBus.modify fun s => setDmaByte_rel (by omega) _ s
    | exact IsBus.modify fun _ => BusRel.of_dev rfl rfl rfl rfl rfl rfl fun hd => { hd with }

/-! ## Read8 and Write8 -/

/-- What every completed read can do (R210, R230). -/
theorem read8_isBus (a : Addr) : IsBus (read8 a) := by
  intro s b t h
  simp only [read8, EStateM.run_bind, EStateM.run_get] at h
  split at h
  · cases h
    exact BusRel.refl s
  · exact ioRead_isBus a s b t h

/-- What every completed write can do (R211, R230). -/
theorem write8_isBus (a : Addr) (v : Byte) : IsBus (write8 a v) := by
  intro s b t h
  simp only [write8, EStateM.run_bind, EStateM.run_get] at h
  split at h
  · cases h
    exact regionWrite_rel ‹_› v
  · exact ioWrite_isBus a v s b t h

/-- A read of a mapped address answers its byte and changes nothing (R210). -/
theorem read8_mapped {s : State} {a : Addr} {v : Byte} (h : s.byte? a = some v) : (read8 a).run s = .ok v s := by
  simp only [State.byte?, Option.map_eq_some_iff] at h
  obtain ⟨p, hp, rfl⟩ := h
  simp only [read8, EStateM.run_bind, EStateM.run_get, hp]
  rfl

/-- A write of a writable address stores the byte and does nothing else (R211). -/
theorem write8_mapped {s t : State} {a : Addr} {v : Byte} (h : s.poke? a v = some t) :
    (write8 a v).run s = .ok () t := by
  simp only [State.poke?, Option.map_eq_some_iff] at h
  obtain ⟨p, hp, rfl⟩ := h
  simp only [write8, EStateM.run_bind, EStateM.run_get, hp]
  rfl

end Sys2Proof.Laws
end

