-- ==== Sys2Proof/Laws/Flags.lean ====
section
/-!
SUPPORT. Bits of a byte, the status register's flags, and what the mode bits force on the registers (`Cpu.Ok`).
-/

namespace Sys2Proof.Laws

open Sys2Proof Sys2Proof.Machine

/-! ## Bytes and words -/

@[simp] theorem lo_mkWord (h l : Byte) : lo (mkWord h l) = l := by
  ext i hi
  simp only [lo, mkWord, BitVec.getElem_extractLsb', BitVec.getLsbD_append]
  simp [hi]

@[simp] theorem hi_mkWord (h l : Byte) : hi (mkWord h l) = h := by
  ext i hi
  simp only [Machine.hi, mkWord, BitVec.getElem_extractLsb', BitVec.getLsbD_append]
  simp [hi]

@[simp] theorem mkWord_hi_lo (w : Word) : mkWord (hi w) (lo w) = w := by
  apply BitVec.eq_of_toNat_eq
  simp only [mkWord, Machine.hi, lo, BitVec.toNat_append, BitVec.extractLsb'_toNat, Nat.shiftRight_zero]
  rw [← Nat.shiftLeft_add_eq_or_of_lt (Nat.mod_lt _ (by decide)), Nat.shiftLeft_eq, Nat.shiftRight_eq_div_pow]
  have := w.isLt
  omega

@[simp] theorem lo_zext (b : Byte) : lo (zext b) = b := by
  ext i h
  simp only [lo, zext, BitVec.getElem_extractLsb', BitVec.getLsbD_setWidth]
  simp [h]
  omega

@[simp] theorem hi_zext (b : Byte) : hi (zext b) = 0 := by
  ext i h
  simp only [Machine.hi, zext, BitVec.getElem_extractLsb', BitVec.getLsbD_setWidth]
  simp

theorem hi_and_low (v : Word) : hi (v &&& 0x00FF) = 0 := by
  ext i h
  simp only [Machine.hi, BitVec.getElem_extractLsb', BitVec.getLsbD_and]
  have hm : ∀ j < 8, (0x00FF#16).getLsbD (8 + j) = false := by decide
  simp [hm i h]

theorem hi_trunc8 (v : Word) : hi (Width.w8.trunc v) = 0 := hi_and_low v

@[simp] theorem trunc16 (v : Word) : Width.w16.trunc v = v := by
  simp only [Width.trunc, Width.mask]
  have : (0xFFFF : Word) = BitVec.allOnes 16 := by decide
  rw [this, BitVec.and_allOnes]

/-! ## Flags -/

/-- Setting one bit of a byte sets that bit and no other. -/
theorem putBit_getLsbD {i : Nat} (h : i < 8) (v : Bool) (p : Byte) (j : Nat) :
    (putBit i v p).getLsbD j = if j = i then v else p.getLsbD j := by
  by_cases hj : j < 8
  · have key : ∀ (i : Fin 8) (j : Fin 8) (v : Bool) (p : Byte),
        (putBit i.val v p).getLsbD j.val = if j.val = i.val then v else p.getLsbD j.val := by decide +kernel
    exact key ⟨i, h⟩ ⟨j, hj⟩ v p
  · rw [if_neg (by omega), BitVec.getLsbD_of_ge _ _ (by omega), BitVec.getLsbD_of_ge _ _ (by omega)]

theorem setFlag_flag {i : Nat} (h : i < 8) (v : Bool) (b : Cpu) (j : Nat) :
    (b.setFlag i v).flag j = if j = i then v else b.flag j := putBit_getLsbD h v b.p j

theorem setNZ_flag (v : Word) (w : Width) (b : Cpu) (j : Nat) :
    (b.setNZ v w).flag j = if j = fZ then decide (w.trunc v = 0) else if j = fN then w.top v else b.flag j := by
  simp only [Cpu.setNZ]
  rw [setFlag_flag (by decide), setFlag_flag (by decide)]

theorem setArith_flag (w : Width) (r : ArithResult) (b : Cpu) (j : Nat) :
    (b.setArith w r).flag j =
      if j = fZ then decide (w.trunc r.r = 0) else if j = fN then w.top r.r
      else if j = fV then r.v else if j = fC then r.c else b.flag j := by
  simp only [Cpu.setArith]
  rw [setNZ_flag, setFlag_flag (by decide), setFlag_flag (by decide)]

@[simp] theorem flag_setAcc (b : Cpu) (w : Width) (v : Word) (j : Nat) : (b.setAcc w v).flag j = b.flag j := by
  cases w <;> rfl

@[simp] theorem flag_setX (b : Cpu) (w : Width) (v : Word) (j : Nat) : (b.setX w v).flag j = b.flag j := rfl

@[simp] theorem flag_setY (b : Cpu) (w : Width) (v : Word) (j : Nat) : (b.setY w v).flag j = b.flag j := rfl

@[simp] theorem flag_charge (b : Cpu) (n : Nat) (j : Nat) : (Cpu.charge n b).flag j = b.flag j := rfl

@[simp] theorem setNZ_mW (v : Word) (w : Width) (b : Cpu) : (b.setNZ v w).mW = b.mW := by
  simp [Cpu.mW, setNZ_flag]

@[simp] theorem setNZ_xW (v : Word) (w : Width) (b : Cpu) : (b.setNZ v w).xW = b.xW := by
  simp [Cpu.xW, setNZ_flag]

end Sys2Proof.Laws

namespace Sys2Proof.Machine

open Sys2Proof Sys2Proof.Laws

/-! ## What the mode bits force -/

/-- Registers the mode bits speak of, unchanged: the property carries over. -/
theorem Cpu.Ok.of_same {b b' : Cpu} (h : b.Ok) (hM : b'.flag fM = b.flag fM) (hX : b'.flag fX = b.flag fX) (hx : b'.x = b.x)
    (hy : b'.y = b.y) (hs : b'.s = b.s) (he : b'.e = b.e) : b'.Ok := by
  constructor
  · rw [hX, hx, hy]
    exact h.index
  · rw [hX, hM, hs, he]
    exact h.emulation

theorem Cpu.Ok.setFlag {b : Cpu} {i : Nat} (hi : i < 8) (hM : i ≠ fM) (hX : i ≠ fX) (v : Bool) (h : b.Ok) :
    (b.setFlag i v).Ok :=
  h.of_same (by rw [setFlag_flag hi, if_neg hM.symm]) (by rw [setFlag_flag hi, if_neg hX.symm]) rfl rfl rfl rfl

theorem Cpu.Ok.setNZ {b : Cpu} (v : Word) (w : Width) (h : b.Ok) : (b.setNZ v w).Ok :=
  (h.setFlag (by decide) (by decide) (by decide) _).setFlag (by decide) (by decide) (by decide) _

theorem Cpu.Ok.setArith {b : Cpu} (w : Width) (r : ArithResult) (h : b.Ok) : (b.setArith w r).Ok :=
  ((h.setFlag (by decide) (by decide) (by decide) _).setFlag (by decide) (by decide) (by decide) _).setNZ _ _

theorem Cpu.Ok.setAcc {b : Cpu} (w : Width) (v : Word) (h : b.Ok) : (b.setAcc w v).Ok := by
  cases w <;> exact h.of_same rfl rfl rfl rfl rfl rfl

theorem Cpu.Ok.charge {b : Cpu} (n : Nat) (h : b.Ok) : (Cpu.charge n b).Ok := h.of_same rfl rfl rfl rfl rfl rfl

/-- An index register written at the index width. -/
theorem Cpu.Ok.setX {b : Cpu} (v : Word) (h : b.Ok) : (b.setX b.xW v).Ok := by
  refine ⟨fun hX => ⟨?_, (h.index hX).2⟩, h.emulation⟩
  have hX' : b.flag fX = true := hX
  simp only [Cpu.setX, Cpu.xW, if_pos hX', hi_trunc8]

theorem Cpu.Ok.setY {b : Cpu} (v : Word) (h : b.Ok) : (b.setY b.xW v).Ok := by
  refine ⟨fun hX => ⟨(h.index hX).1, ?_⟩, h.emulation⟩
  have hX' : b.flag fX = true := hX
  simp only [Cpu.setY, Cpu.xW, if_pos hX', hi_trunc8]

theorem Cpu.Ok.setS {b : Cpu} (v : Word) (h : b.Ok) : (b.setS v).Ok := by
  refine ⟨h.index, fun he => ⟨(h.emulation he).1, (h.emulation he).2.1, ?_⟩⟩
  have he' : b.e = true := he
  simp only [Cpu.setS, if_pos he', hi_mkWord]

theorem Cpu.Ok.decS {b : Cpu} (h : b.Ok) : b.decS.Ok := by
  refine ⟨h.index, fun he => ⟨(h.emulation he).1, (h.emulation he).2.1, ?_⟩⟩
  have he' : b.e = true := he
  simp only [Cpu.decS, if_pos he', hi_mkWord]

theorem Cpu.Ok.incS {b : Cpu} (h : b.Ok) : b.incS.Ok := by
  refine ⟨h.index, fun he => ⟨(h.emulation he).1, (h.emulation he).2.1, ?_⟩⟩
  have he' : b.e = true := he
  simp only [Cpu.incS, if_pos he', hi_mkWord]

/-- The mode bits of a byte with bits 5 and 4 set. -/
theorem Cpu.or30_flags (p : Byte) : (p ||| 0x30).getLsbD fM = true ∧ (p ||| 0x30).getLsbD fX = true := by
  have : ∀ p : Byte, (p ||| 0x30).getLsbD fM = true ∧ (p ||| 0x30).getLsbD fX = true := by decide +kernel
  exact this p

/-- `WriteP` establishes what the mode bits force, wherever S was in page 1 in emulation mode (R620). -/
theorem Cpu.Ok.writeP {b : Cpu} (v : Byte) (hs : b.e = true → hi b.s = 0x01) : (b.writeP v).Ok := by
  have key : ∀ b' : Cpu, (b'.e = true → hi b'.s = 0x01 ∧ b'.flag fM = true ∧ b'.flag fX = true) → b'.maskIndex.Ok := by
    intro b' hb'
    unfold Cpu.maskIndex
    split_ifs with hX
    · exact ⟨fun _ => ⟨hi_and_low _, hi_and_low _⟩, fun he => ⟨(hb' he).2.1, (hb' he).2.2, (hb' he).1⟩⟩
    · exact ⟨fun h => absurd h hX, fun he => ⟨(hb' he).2.1, (hb' he).2.2, (hb' he).1⟩⟩
  refine key _ fun he => ?_
  have he' : b.e = true := by
    unfold Cpu.forceModes at he
    split_ifs at he with h
    · exact h
    · exact absurd he h
  have hf : (({ b with p := v } : Cpu).forceModes).flag fM = true ∧ (({ b with p := v } : Cpu).forceModes).flag fX = true := by
    simp only [Cpu.forceModes, if_pos he']
    exact Cpu.or30_flags v
  refine ⟨?_, hf⟩
  simp only [Cpu.forceModes, if_pos he']
  exact hs he'

theorem Cpu.Ok.blockStep {b : Cpu} (dst : Byte) (step : Word) (h : b.Ok) : (b.blockStep dst step).Ok := by
  refine ⟨fun hX => ?_, h.emulation⟩
  have hX' : b.flag fX = true := hX
  simp only [Cpu.blockStep, Cpu.xW, if_pos hX', hi_trunc8, and_self]

theorem Cpu.Ok.exchangeModes {b : Cpu} (h : b.Ok) : b.exchangeModes.Ok := by
  simp only [Cpu.exchangeModes]
  split_ifs with hc
  · refine ⟨fun _ => ⟨hi_and_low _, hi_and_low _⟩, fun _ => ⟨?_, ?_, hi_mkWord _ _⟩⟩
    · exact (Cpu.or30_flags _).1
    · exact (Cpu.or30_flags _).2
  · refine ⟨fun hX => ?_, fun he => absurd he hc⟩
    refine h.index ?_
    rw [show (Cpu.flag { b.setFlag fC b.e with e := b.flag fC } fX) = (b.setFlag fC b.e).flag fX from rfl,
      setFlag_flag (by decide), if_neg (by decide)] at hX
    exact hX

end Sys2Proof.Machine
end

