-- ==== Sys2Proof/Laws/Ops.lean ====
section
/-!
SUPPORT. One lemma per shared operation of the main CPU: what it answers where the bytes it needs are mapped, and what every
completed run of it can do.
-/

namespace Sys2Proof.Laws

open Sys2Proof Sys2Proof.Machine

variable {α β : Type}

/-! ## Where the bytes are mapped -/

theorem memRead_mapped {s : State} {l : Loc} {w : Width} {v : Word} (h : s.word? l w = some v) :
    (memRead l w).run s = .ok v s := by
  cases w with
  | w8 =>
    simp only [State.word?, Option.map_eq_some_iff] at h
    obtain ⟨b, hb, rfl⟩ := h
    simp only [memRead]
    rw [bind_ok (read8_mapped hb)]
    rfl
  | w16 =>
    simp only [State.word?, Option.bind_eq_some_iff, Option.map_eq_some_iff] at h
    obtain ⟨b0, h0, b1, h1, rfl⟩ := h
    simp only [memRead]
    rw [bind_ok (read8_mapped h0), bind_ok (read8_mapped h1)]
    rfl

theorem memRead24_mapped {s : State} {l : Loc} {a : Addr} (h : s.far? l = some a) : (memRead24 l).run s = .ok a s := by
  simp only [State.far?, Option.bind_eq_some_iff, Option.map_eq_some_iff] at h
  obtain ⟨b0, h0, b1, h1, b2, h2, rfl⟩ := h
  simp only [memRead24]
  rw [bind_ok (read8_mapped h0), bind_ok (read8_mapped h1), bind_ok (read8_mapped h2)]
  rfl

theorem memWrite_mapped {s t : State} {l : Loc} {w : Width} {v : Word} (h : s.store? l w v = some t) :
    (memWrite l w v).run s = .ok () t := by
  cases w with
  | w8 => exact write8_mapped h
  | w16 =>
    simp only [State.store?, Option.bind_eq_some_iff] at h
    obtain ⟨u, h0, h1⟩ := h
    simp only [memWrite]
    rw [bind_ok (write8_mapped h0), write8_mapped h1]

theorem resolve_mapped {s : State} {m : AddrMode} {p : Loc × Bool} (h : s.loc? m = some p) :
    (resolve m).run s = .ok p s := by
  cases m <;> simp only [State.loc?, Option.map_eq_some_iff, Option.some.injEq] at h
  case dpind o => obtain ⟨q, hq, rfl⟩ := h; simp only [resolve]; rw [bind_ok (getCpu_run s), bind_ok (memRead_mapped hq)]; rfl
  case dpxind o => obtain ⟨q, hq, rfl⟩ := h; simp only [resolve]; rw [bind_ok (getCpu_run s), bind_ok (memRead_mapped hq)]; rfl
  case dpindy o => obtain ⟨q, hq, rfl⟩ := h; simp only [resolve]; rw [bind_ok (getCpu_run s), bind_ok (memRead_mapped hq)]; rfl
  case dpindl o => obtain ⟨q, hq, rfl⟩ := h; simp only [resolve, Cpu.dpnLoc]; rw [bind_ok (getCpu_run s), bind_ok (memRead24_mapped hq)]; rfl
  case dpindly o => obtain ⟨q, hq, rfl⟩ := h; simp only [resolve, Cpu.dpnLoc]; rw [bind_ok (getCpu_run s), bind_ok (memRead24_mapped hq)]; rfl
  case sriy o => obtain ⟨q, hq, rfl⟩ := h; simp only [resolve]; rw [bind_ok (getCpu_run s), bind_ok (memRead_mapped hq)]; rfl
  all_goals
    subst h
    rfl

theorem srcValue_mapped {s : State} {src : Src} {w : Width} {p : Word × Facts} (h : s.value? w src = some p) :
    (srcValue src w).run s = .ok p s := by
  cases src with
  | imm v =>
    simp only [State.value?, Option.some.injEq] at h
    subst h
    rfl
  | mem m =>
    simp only [State.value?, Option.bind_eq_some_iff, Option.map_eq_some_iff] at h
    obtain ⟨q, hq, v, hv, rfl⟩ := h
    simp only [srcValue]
    rw [bind_ok (resolve_mapped hq), bind_ok (memRead_mapped hv)]
    rfl

theorem storeValue_mapped {s t : State} {m : AddrMode} {w : Width} {v : Word} {p : Loc × Bool} (hl : s.loc? m = some p)
    (h : s.store? p.1 w v = some t) : (storeValue m w v).run s = .ok (Facts.index p.2) t := by
  simp only [storeValue]
  rw [bind_ok (resolve_mapped hl), bind_ok (memWrite_mapped h)]
  rfl

theorem push8_mapped {s t : State} {v : Byte} (h : s.push8? v = some t) : (push8 v).run s = .ok () t := by
  simp only [State.push8?, Option.map_eq_some_iff] at h
  obtain ⟨u, hu, rfl⟩ := h
  simp only [push8]
  rw [bind_ok (getCpu_run s), bind_ok (write8_mapped hu)]
  rfl

theorem push16_mapped {s t : State} {v : Word} (h : s.push16? v = some t) : (push16 v).run s = .ok () t := by
  simp only [State.push16?, Option.bind_eq_some_iff] at h
  obtain ⟨u, hu, ht⟩ := h
  simp only [push16]
  rw [bind_ok (push8_mapped hu), push8_mapped ht]

theorem pushW_mapped {s t : State} {v : Word} {w : Width} (h : s.pushW? v w = some t) : (pushW v w).run s = .ok () t := by
  cases w with
  | w8 => exact push8_mapped h
  | w16 => exact push16_mapped h

theorem pull8_mapped {s t : State} {v : Byte} (h : s.pull8? = some (v, t)) : pull8.run s = .ok v t := by
  simp only [State.pull8?, Option.map_eq_some_iff, Prod.mk.injEq] at h
  obtain ⟨u, hu, rfl, rfl⟩ := h
  simp only [pull8]
  rw [bind_ok (onCpu_run _ s), bind_ok (getCpu_run _)]
  exact read8_mapped hu

theorem pull16_mapped {s t : State} {v : Word} (h : s.pull16? = some (v, t)) : pull16.run s = .ok v t := by
  simp only [State.pull16?, Option.bind_eq_some_iff, Option.map_eq_some_iff, Prod.mk.injEq] at h
  obtain ⟨⟨l, u⟩, hu, ⟨h', t'⟩, ht, rfl, rfl⟩ := h
  simp only [pull16]
  rw [bind_ok (pull8_mapped hu), bind_ok (pull8_mapped ht)]
  rfl

theorem pullW_mapped {s t : State} {v : Word} {w : Width} (h : s.pullW? w = some (v, t)) : (pullW w).run s = .ok v t := by
  cases w with
  | w8 =>
    simp only [State.pullW?, Option.map_eq_some_iff, Prod.mk.injEq] at h
    obtain ⟨⟨l, u⟩, hu, rfl, rfl⟩ := h
    simp only [pullW]
    rw [bind_ok (pull8_mapped hu)]
    rfl
  | w16 => exact pull16_mapped h

/-! ## What a store changes -/

theorem regionRead_regionWrite_other {s : State} {p q : Region × Nat} (h : q ≠ p) (v : Byte) :
    regionRead (regionWrite p.1 p.2 v s) q.1 q.2 = regionRead s q.1 q.2 := by
  obtain ⟨r, i⟩ := p
  obtain ⟨r', i'⟩ := q
  have hi : r = r' → i' ≠ i := by
    rintro rfl rfl
    exact h rfl
  cases r <;> cases r' <;> simp only [regionRead, regionWrite, onWram_wram, onSram_sram, onWram_sram, onSram_wram,
    onWram_cfg, onSram_cfg]
  · exact read_write_other (hi rfl) _
  · exact read_write_other (hi rfl) _

@[simp] theorem regionWrite_cfg (r : Region) (i : Nat) (v : Byte) (s : State) : (regionWrite r i v s).cfg = s.cfg := by
  cases r <;> rfl

@[simp] theorem regionWrite_cpu (r : Region) (i : Nat) (v : Byte) (s : State) : (regionWrite r i v s).cpu = s.cpu := by
  cases r <;> rfl

theorem poke?_cfg {s t : State} {a : Addr} {v : Byte} (h : s.poke? a v = some t) : t.cfg = s.cfg := by
  simp only [State.poke?, Option.map_eq_some_iff] at h
  obtain ⟨p, _, rfl⟩ := h
  simp

theorem poke?_cpu {s t : State} {a : Addr} {v : Byte} (h : s.poke? a v = some t) : t.cpu = s.cpu := by
  simp only [State.poke?, Option.map_eq_some_iff] at h
  obtain ⟨p, _, rfl⟩ := h
  simp

/-- Every address that does not name the stored cell reads as before. -/
theorem byte?_poke?_other {s t : State} {a b : Addr} {v : Byte} (h : s.poke? a v = some t)
    (hab : rpage s.cfg b ≠ rpage s.cfg a) : t.byte? b = s.byte? b := by
  have hc := poke?_cfg h
  simp only [State.poke?, Option.map_eq_some_iff] at h
  obtain ⟨p, hp, rfl⟩ := h
  have hpr := (wpage_rpage hp).1
  simp only [State.byte?, hc]
  cases hq : rpage s.cfg b with
  | none => rfl
  | some q =>
    simp only [Option.map_some, Option.some.injEq]
    refine regionRead_regionWrite_other ?_ v
    rintro rfl
    exact hab (hq.trans hpr.symm)

/-- The stored byte reads back. -/
theorem byte?_poke?_same {s t : State} {a : Addr} {v : Byte} (hm : Memory.wf s = true) (h : s.poke? a v = some t) :
    t.byte? a = some v := by
  have hc := poke?_cfg h
  have hw := memory_wf_iff.1 hm
  simp only [State.poke?, Option.map_eq_some_iff] at h
  obtain ⟨p, hp, rfl⟩ := h
  obtain ⟨hpr, hr⟩ := wpage_rpage hp
  simp only [State.byte?, hc, hpr, Option.map_some, Option.some.injEq]
  obtain ⟨r, i⟩ := p
  cases r with
  | rom => exact absurd rfl hr
  | wram => exact read_write_same hw.1
  | sram => exact read_write_same hw.2.1

/-! ## Every completed run -/

theorem getCpu_isBus : IsBus getCpu := by
  intro s a t h
  cases h
  exact BusRel.refl s

theorem memRead_isBus (l : Loc) (w : Width) : IsBus (memRead l w) := by
  cases w with
  | w8 => exact IsBus.bind (read8_isBus _) fun _ => IsBus.pure _
  | w16 => exact IsBus.bind (read8_isBus _) fun _ => IsBus.bind (read8_isBus _) fun _ => IsBus.pure _

theorem memRead24_isBus (l : Loc) : IsBus (memRead24 l) :=
  IsBus.bind (read8_isBus _) fun _ => IsBus.bind (read8_isBus _) fun _ => IsBus.bind (read8_isBus _) fun _ => IsBus.pure _

theorem memWrite_isBus (l : Loc) (w : Width) (v : Word) : IsBus (memWrite l w v) := by
  cases w with
  | w8 => exact write8_isBus _ _
  | w16 => exact IsBus.bind (write8_isBus _ _) fun _ => write8_isBus _ _

theorem resolve_isBus (m : AddrMode) : IsBus (resolve m) := by
  cases m <;> first
    | exact IsBus.bind getCpu_isBus fun _ => IsBus.pure _
    | exact IsBus.pure _
    | exact IsBus.bind getCpu_isBus fun _ => IsBus.bind (memRead_isBus _ _) fun _ => IsBus.pure _
    | exact IsBus.bind getCpu_isBus fun _ => IsBus.bind (memRead24_isBus _) fun _ => IsBus.pure _

theorem srcValue_isBus (src : Src) (w : Width) : IsBus (srcValue src w) := by
  cases src with
  | imm v => exact IsBus.pure _
  | mem m => exact IsBus.bind (resolve_isBus m) fun _ => IsBus.bind (memRead_isBus _ _) fun _ => IsBus.pure _

theorem storeValue_isBus (m : AddrMode) (w : Width) (v : Word) : IsBus (storeValue m w v) :=
  IsBus.bind (resolve_isBus m) fun _ => IsBus.bind (memWrite_isBus _ _ _) fun _ => IsBus.pure _

/-- What an operation of the main CPU leaves as it was, and what it keeps. -/
structure OpRel (s t : State) : Prop where
  cfg       : t.cfg = s.cfg
  fatal     : t.fatal = s.fatal
  resetDone : t.resetDone = s.resetDone
  vline     : t.sched.vline = s.sched.vline
  frame     : t.sched.frameComplete = s.sched.frameComplete
  line      : t.lineState = s.lineState
  master    : s.sched.master ≤ t.sched.master
  dev       : s.DevInv → t.DevInv
  cpu       : s.cpu.Ok → t.cpu.Ok

theorem OpRel.refl (s : State) : OpRel s s := ⟨rfl, rfl, rfl, rfl, rfl, rfl, Nat.le_refl _, id, id⟩

theorem OpRel.trans {s t u : State} (h : OpRel s t) (h' : OpRel t u) : OpRel s u :=
  ⟨h'.cfg.trans h.cfg, h'.fatal.trans h.fatal, h'.resetDone.trans h.resetDone, h'.vline.trans h.vline,
    h'.frame.trans h.frame, h'.line.trans h.line, Nat.le_trans h.master h'.master, h'.dev ∘ h.dev, h'.cpu ∘ h.cpu⟩

theorem BusRel.op {s t : State} (h : BusRel s t) : OpRel s t :=
  ⟨h.cfg, h.fatal, h.resetDone, h.vline, h.frame, h.line, h.master, h.dev, fun hk => h.cpu ▸ hk⟩

/-- An update of the CPU that keeps what the mode bits force. -/
theorem OpRel.onCpu {s : State} {f : Cpu → Cpu} (h : s.cpu.Ok → (f s.cpu).Ok) : OpRel s (s.onCpu f) :=
  ⟨rfl, rfl, rfl, rfl, rfl, rfl, Nat.le_refl _, fun hd => { hd with }, h⟩

/-- The completed runs of `x` from `s` are those of an operation of the main CPU. -/
def OpAt (s : State) (x : M α) : Prop := ∀ a t, x.run s = .ok a t → OpRel s t

theorem OpAt.pure {s : State} (a : α) : OpAt s (Pure.pure a : M α) := by
  intro b t h
  cases h
  exact OpRel.refl s

theorem OpAt.bind {s : State} {x : M α} {f : α → M β} (hx : OpAt s x) (hf : ∀ a t, x.run s = .ok a t → OpAt t (f a)) :
    OpAt s (x >>= f) := by
  intro b u h
  obtain ⟨a, t, h1, h2⟩ := ok_of_bind h
  exact (hx a t h1).trans (hf a t h1 b u h2)

/-- A bus access first: the CPU is as it was in what follows. -/
theorem OpAt.bus_bind {s : State} {x : M α} {f : α → M β} (hx : IsBus x) (hf : ∀ a t, t.cpu = s.cpu → OpAt t (f a)) :
    OpAt s (x >>= f) :=
  OpAt.bind (fun a t h => (hx s a t h).op) fun a t h => hf a t (hx s a t h).cpu

theorem OpAt.bus {s : State} {x : M α} (hx : IsBus x) : OpAt s x := fun a t h => (hx s a t h).op

theorem OpAt.getCpu_bind {s : State} {f : Cpu → M β} (hf : OpAt s (f s.cpu)) : OpAt s (Machine.getCpu >>= f) :=
  fun a t h => hf a t h

theorem OpAt.onCpu {s : State} {f : Cpu → Cpu} (h : s.cpu.Ok → (f s.cpu).Ok) : OpAt s (Machine.onCpu f) := by
  intro a t ht
  cases ht
  exact OpRel.onCpu h

theorem OpAt.onCpu_bind {s : State} {f : Cpu → Cpu} {g : Unit → M β} (h : s.cpu.Ok → (f s.cpu).Ok)
    (hg : OpAt (s.onCpu f) (g ())) : OpAt s (Machine.onCpu f >>= g) :=
  OpAt.bind (OpAt.onCpu h) fun a t ht => by
    cases ht
    exact hg

theorem push8_op (s : State) (v : Byte) : OpAt s (push8 v) :=
  OpAt.getCpu_bind <| OpAt.bus_bind (write8_isBus _ _) fun _ _ _ => OpAt.onCpu Cpu.Ok.decS

theorem push16_op (s : State) (v : Word) : OpAt s (push16 v) :=
  OpAt.bind (push8_op _ _) fun _ _ _ => push8_op _ _

theorem pushW_op (s : State) (v : Word) (w : Width) : OpAt s (pushW v w) := by
  cases w with
  | w8 => exact push8_op _ _
  | w16 => exact push16_op _ _

theorem pull8_op (s : State) : OpAt s pull8 :=
  OpAt.onCpu_bind Cpu.Ok.incS <| OpAt.getCpu_bind <| OpAt.bus (read8_isBus _)

theorem pull16_op (s : State) : OpAt s pull16 :=
  OpAt.bind (pull8_op _) fun _ _ _ => OpAt.bind (pull8_op _) fun _ _ _ => OpAt.pure _

theorem pullW_op (s : State) (w : Width) : OpAt s (pullW w) := by
  cases w with
  | w8 => exact OpAt.bind (pull8_op _) fun _ _ _ => OpAt.pure _
  | w16 => exact pull16_op _

/-! ## Exceptions -/

theorem Cpu.enterInterrupt_ok {b : Cpu} (h : b.Ok) : b.enterInterrupt.Ok :=
  Cpu.Ok.of_same (Cpu.Ok.writeP _ fun he => (h.emulation he).2.2) rfl rfl rfl rfl rfl rfl

theorem pushFrame_op (s : State) (k : IntKind) (ret : Word) : OpAt s (pushFrame k ret) := by
  refine OpAt.getCpu_bind ?_
  split
  · exact OpAt.bind (push16_op _ _) fun _ _ _ => push8_op _ _
  · exact OpAt.bind (push8_op _ _) fun _ _ _ => OpAt.bind (push16_op _ _) fun _ _ _ => push8_op _ _

theorem readVector_isBus (v : Word) : IsBus (readVector v) :=
  IsBus.bind (read8_isBus _) fun _ => IsBus.bind (read8_isBus _) fun _ => IsBus.pure _

/-- What taking an exception can do (R805). -/
theorem interrupt_op (s : State) (k : IntKind) (ret : Word) : OpAt s (interrupt k ret) :=
  OpAt.bind (pushFrame_op _ _ _) fun _ _ _ => OpAt.onCpu_bind Cpu.enterInterrupt_ok <| OpAt.getCpu_bind <|
    OpAt.bus_bind (readVector_isBus _) fun _ _ _ => OpAt.onCpu fun h => h.of_same rfl rfl rfl rfl rfl rfl

/-- What an NMI can do (R804, R808). -/
theorem fireNmi_op (s : State) : OpAt s fireNmi := by
  refine OpAt.getCpu_bind ?_
  split
  · exact OpAt.bind (interrupt_op _ _ _) fun _ _ _ => OpAt.onCpu (Cpu.Ok.charge _)
  · exact OpAt.pure _

/-- What a return from interrupt can do (R601). -/
theorem returnFromInterrupt_op (s : State) : OpAt s returnFromInterrupt := by
  refine OpAt.bind (pull8_op _) fun p t _ => OpAt.onCpu_bind (fun h => Cpu.Ok.writeP _ fun he => (h.emulation he).2.2) ?_
  refine OpAt.bind (pull16_op _) fun v u _ => OpAt.onCpu_bind (fun h => h.of_same rfl rfl rfl rfl rfl rfl) ?_
  refine OpAt.getCpu_bind ?_
  split
  · exact OpAt.bind (pull8_op _) fun _ _ _ => OpAt.onCpu fun h => h.of_same rfl rfl rfl rfl rfl rfl
  · exact OpAt.pure _

/-- What a completed instruction did, where its body is an operation of the main CPU. -/
theorem runInstr_op {i : Instr} {body : M Facts} {s u : State} (hb : OpAt s body) (h : runInstr i body s = .next u) :
    OpRel s u := by
  obtain ⟨f, t, hr, rfl⟩ := of_runInstr_next h
  exact (hb f t hr).trans (OpRel.onCpu (Cpu.Ok.charge _))

end Sys2Proof.Laws
end

