-- ==== Sys2Proof/Laws/Exec.lean ====
section
/-!
SUPPORT. What every completed instruction can do, said once for all of them: `exec_op`.
-/

namespace Sys2Proof.Laws

open Sys2Proof Sys2Proof.Machine

variable {α β : Type}

/-! ## Shapes of instructions -/

/-- A source operand read at a width, an update of the CPU from it. -/
theorem readInstr_op {i : Instr} {src : Src} {w : Cpu → Width} {f : Width → Word → Cpu → Cpu} {s u : State}
    (hf : ∀ v, s.cpu.Ok → (f (w s.cpu) v s.cpu).Ok)
    (h : runInstr i (do
      let w := w (← getCpu)
      let (v, facts) ← srcValue src w
      onCpu (f w v)
      return facts) s = .next u) : OpRel s u := by
  refine runInstr_op (OpAt.getCpu_bind ?_) h
  refine OpAt.bus_bind (srcValue_isBus _ _) fun p t hc => ?_
  refine OpAt.onCpu_bind ?_ (OpAt.pure _)
  rw [hc]
  exact hf p.1

theorem regInstr_op {i : Instr} {f : Cpu → Cpu} {s u : State} (hf : s.cpu.Ok → (f s.cpu).Ok)
    (h : regInstr i f s = .next u) : OpRel s u :=
  runInstr_op (OpAt.onCpu_bind hf (OpAt.pure _)) h

theorem branchTo_op {i : Instr} {c : Cpu → Bool} {t : Word → Word} {s u : State} (h : branchTo i c t s = .next u) :
    OpRel s u := by
  refine runInstr_op (OpAt.getCpu_bind ?_) h
  split
  · exact OpAt.onCpu_bind (fun h => h.of_same rfl rfl rfl rfl rfl rfl) (OpAt.pure _)
  · exact OpAt.pure _

theorem branchInstr_op {i : Instr} {c : Cpu → Bool} {r : Byte} {s u : State} (h : branchInstr i c r s = .next u) :
    OpRel s u :=
  branchTo_op h

theorem storeInstr_op {i : Instr} {m : AddrMode} {w : Cpu → Width} {v : Cpu → Word} {s u : State}
    (h : runInstr i (do
      let b ← getCpu
      storeValue m (w b) (v b)) s = .next u) : OpRel s u :=
  runInstr_op (OpAt.getCpu_bind (OpAt.bus (storeValue_isBus _ _ _))) h

/-- A read-modify-write instruction whose computation changes no more than the carry. -/
theorem modifyOperand_op {s : State} {op : Rmw} {f : Width → Word → M Word} (hf : ∀ t w v, OpAt t (f w v)) :
    OpAt s (modifyOperand op f) := by
  refine OpAt.getCpu_bind ?_
  cases op with
  | acc =>
    exact OpAt.bind (hf _ _ _) fun r t _ => OpAt.onCpu_bind (fun h => (h.setAcc _ _).setNZ _ _) (OpAt.pure _)
  | mem m =>
    exact OpAt.bus_bind (resolve_isBus _) fun _ _ _ => OpAt.bus_bind (memRead_isBus _ _) fun _ _ _ =>
      OpAt.bind (hf _ _ _) fun _ _ _ => OpAt.bus_bind (memWrite_isBus _ _ _) fun _ _ _ =>
        OpAt.onCpu_bind (fun h => h.setNZ _ _) (OpAt.pure _)

theorem testAndChange_op {s : State} {m : AddrMode} {f : Width → Word → Word → Word} : OpAt s (testAndChange m f) :=
  OpAt.getCpu_bind <| OpAt.bus_bind (resolve_isBus _) fun _ _ _ => OpAt.bus_bind (memRead_isBus _ _) fun _ _ _ =>
    OpAt.onCpu_bind (fun h => h.setFlag (by decide) (by decide) (by decide) _) <|
      OpAt.bus_bind (memWrite_isBus _ _ _) fun _ _ _ => OpAt.pure _

theorem blockMove_op {s : State} {dst src : Byte} {step : Word} : OpAt s (blockMove dst src step) :=
  OpAt.getCpu_bind <| OpAt.bus_bind (read8_isBus _) fun _ _ _ => OpAt.bus_bind (write8_isBus _ _) fun _ _ _ =>
    OpAt.onCpu_bind (fun h => h.blockStep _ _) (OpAt.pure _)

/-- A pull moves S; it does not touch P. -/
theorem pull8_p {s t : State} {v : Byte} (h : pull8.run s = .ok v t) : t.cpu.p = s.cpu.p :=
  (congrArg Cpu.p (read8_isBus (mkAddr 0 s.cpu.incS.s) (s.onCpu Cpu.incS) v t h).cpu).trans rfl

theorem pullW_p {s t : State} {w : Width} {v : Word} (h : (pullW w).run s = .ok v t) : t.cpu.p = s.cpu.p := by
  cases w with
  | w8 =>
    obtain ⟨b, u, h1, h2⟩ := ok_of_bind (x := pull8) h
    cases h2
    exact pull8_p h1
  | w16 =>
    obtain ⟨b, u, h1, h2⟩ := ok_of_bind (x := pull8) h
    obtain ⟨c, u', h3, h4⟩ := ok_of_bind (x := pull8) h2
    cases h4
    exact (pull8_p h3).trans (pull8_p h1)

/-- A change of PC alone, or of PC and PBR, keeps what the mode bits force. -/
theorem jumpTo_op {s : State} (t : Word) : OpAt s (jumpTo t) := OpAt.onCpu fun h => h.of_same rfl rfl rfl rfl rfl rfl

theorem jumpLong_op {s : State} (a : Addr) : OpAt s (jumpLong a) := OpAt.onCpu fun h => h.of_same rfl rfl rfl rfl rfl rfl

/-- An audio instruction changes the audio subsystem alone. -/
theorem runAudio_op {i : Instr} {body : A Bool} {s u : State} (hb : audioBody i = some body)
    (h : runAudio i body s = .next u) : OpRel s u := by
  cases h
  refine ⟨rfl, rfl, rfl, rfl, rfl, rfl, Nat.le_refl _, fun hd => DevInv.setApu hd fun ha => ?_, id⟩
  exact audioBody_keeps hb s.cfg s.apu ha

/-! ## Every instruction -/

theorem compare_ok {b : Cpu} {w : Width} {a v : Word} (h : b.Ok) : (b.compare w a v).Ok :=
  (h.setFlag (by decide) (by decide) (by decide) _).setNZ _ _

theorem flag_ok {b : Cpu} {i : Nat} {v : Bool} (hi : i < 8) (hM : i ≠ fM) (hX : i ≠ fX) (h : b.Ok) : (b.setFlag i v).Ok :=
  h.setFlag hi hM hX v

theorem pc_ok {b : Cpu} {v : Word} (h : b.Ok) : Cpu.Ok { b with pc := v } := h.of_same rfl rfl rfl rfl rfl rfl

theorem setNZ_ok {b b' : Cpu} {v : Word} {w : Width} (h : b.Ok) (hp : b'.p = b.p) (hx : b'.x = b.x) (hy : b'.y = b.y)
    (hs : b'.s = b.s) (he : b'.e = b.e) : (b'.setNZ v w).Ok :=
  Cpu.Ok.setNZ v w (h.of_same (by simp only [Cpu.flag, hp]) (by simp only [Cpu.flag, hp]) hx hy hs he)

theorem arithInstr_op {i : Instr} {src : Src} {g : Bool → Width → Word → Word → Bool → ArithResult} {s u : State}
    (h : arithInstr i src g s = .next u) : OpRel s u :=
  readInstr_op (w := Cpu.mW)
    (f := fun w v b => (b.setAcc w (g (b.flag fD) w (b.acc w) v (b.flag fC)).r).setArith w
      (g (b.flag fD) w (b.acc w) v (b.flag fC)))
    (fun _ hk => (hk.setAcc _ _).setArith _ _) h

theorem logicInstr_op {i : Instr} {src : Src} {g : Word → Word → Word} {s u : State}
    (h : logicInstr i src g s = .next u) : OpRel s u :=
  readInstr_op (w := Cpu.mW) (f := fun w v b => (b.setAcc w (g (b.acc w) v)).setNZ (g (b.acc w) v) w)
    (fun _ hk => (hk.setAcc _ _).setNZ _ _) h

theorem execLda_op {src : Src} {s u : State} (h : execLda src s = .next u) : OpRel s u :=
  readInstr_op (w := Cpu.mW) (f := fun w v b => (b.setAcc w v).setNZ v w) (fun _ hk => (hk.setAcc _ _).setNZ _ _) h

theorem execLdx_op {src : Src} {s u : State} (h : execLdx src s = .next u) : OpRel s u :=
  readInstr_op (w := Cpu.xW) (f := fun w v b => (b.setX w v).setNZ v w) (fun _ hk => (hk.setX _).setNZ _ _) h

theorem execLdy_op {src : Src} {s u : State} (h : execLdy src s = .next u) : OpRel s u :=
  readInstr_op (w := Cpu.xW) (f := fun w v b => (b.setY w v).setNZ v w) (fun _ hk => (hk.setY _).setNZ _ _) h

theorem execSta_op {m : AddrMode} {s u : State} (h : execSta m s = .next u) : OpRel s u :=
  storeInstr_op (w := Cpu.mW) (v := fun b => b.acc b.mW) h

theorem execStx_op {m : AddrMode} {s u : State} (h : execStx m s = .next u) : OpRel s u :=
  storeInstr_op (w := Cpu.xW) (v := Cpu.x) h

theorem execSty_op {m : AddrMode} {s u : State} (h : execSty m s = .next u) : OpRel s u :=
  storeInstr_op (w := Cpu.xW) (v := Cpu.y) h

theorem execStz_op {m : AddrMode} {s u : State} (h : execStz m s = .next u) : OpRel s u :=
  storeInstr_op (w := Cpu.mW) (v := fun _ => 0) h

theorem execTax_op {s u : State} (h : execTax s = .next u) : OpRel s u := by
  refine regInstr_op (fun hk => ?_) h
  exact (hk.setX _).setNZ _ _

theorem execTay_op {s u : State} (h : execTay s = .next u) : OpRel s u := by
  refine regInstr_op (fun hk => ?_) h
  exact (hk.setY _).setNZ _ _

theorem execTxa_op {s u : State} (h : execTxa s = .next u) : OpRel s u := by
  refine regInstr_op (fun hk => ?_) h
  exact (hk.setAcc _ _).setNZ _ _

theorem execTya_op {s u : State} (h : execTya s = .next u) : OpRel s u := by
  refine regInstr_op (fun hk => ?_) h
  exact (hk.setAcc _ _).setNZ _ _

theorem execTxy_op {s u : State} (h : execTxy s = .next u) : OpRel s u := by
  refine regInstr_op (fun hk => ?_) h
  exact (hk.setY _).setNZ _ _

theorem execTyx_op {s u : State} (h : execTyx s = .next u) : OpRel s u := by
  refine regInstr_op (fun hk => ?_) h
  exact (hk.setX _).setNZ _ _

theorem execTsx_op {s u : State} (h : execTsx s = .next u) : OpRel s u := by
  refine regInstr_op (fun hk => ?_) h
  exact (hk.setX _).setNZ _ _

theorem execTxs_op {s u : State} (h : execTxs s = .next u) : OpRel s u := by
  refine regInstr_op (fun hk => ?_) h
  exact hk.setS _

theorem execTcs_op {s u : State} (h : execTcs s = .next u) : OpRel s u := by
  refine regInstr_op (fun hk => ?_) h
  exact hk.setS _

theorem execTsc_op {s u : State} (h : execTsc s = .next u) : OpRel s u := by
  refine regInstr_op (fun hk => ?_) h
  exact setNZ_ok hk rfl rfl rfl rfl rfl

theorem execTcd_op {s u : State} (h : execTcd s = .next u) : OpRel s u := by
  refine regInstr_op (fun hk => ?_) h
  exact setNZ_ok hk rfl rfl rfl rfl rfl

theorem execTdc_op {s u : State} (h : execTdc s = .next u) : OpRel s u := by
  refine regInstr_op (fun hk => ?_) h
  exact setNZ_ok hk rfl rfl rfl rfl rfl

theorem execXba_op {s u : State} (h : execXba s = .next u) : OpRel s u := by
  refine regInstr_op (fun hk => ?_) h
  exact setNZ_ok hk rfl rfl rfl rfl rfl

theorem execMvn_op {dst : Byte} {src : Byte} {s u : State} (h : execMvn dst src s = .next u) : OpRel s u :=
  runInstr_op blockMove_op h

theorem execMvp_op {dst : Byte} {src : Byte} {s u : State} (h : execMvp dst src s = .next u) : OpRel s u :=
  runInstr_op blockMove_op h

theorem execPha_op {s u : State} (h : execPha s = .next u) : OpRel s u := by
  refine runInstr_op ?_ h
  exact OpAt.getCpu_bind (OpAt.bind (pushW_op _ _ _) fun _ _ _ => OpAt.pure _)

theorem execPhx_op {s u : State} (h : execPhx s = .next u) : OpRel s u := by
  refine runInstr_op ?_ h
  exact OpAt.getCpu_bind (OpAt.bind (pushW_op _ _ _) fun _ _ _ => OpAt.pure _)

theorem execPhy_op {s u : State} (h : execPhy s = .next u) : OpRel s u := by
  refine runInstr_op ?_ h
  exact OpAt.getCpu_bind (OpAt.bind (pushW_op _ _ _) fun _ _ _ => OpAt.pure _)

theorem execPhp_op {s u : State} (h : execPhp s = .next u) : OpRel s u := by
  refine runInstr_op ?_ h
  exact OpAt.getCpu_bind (OpAt.bind (push8_op _ _) fun _ _ _ => OpAt.pure _)

theorem execPhb_op {s u : State} (h : execPhb s = .next u) : OpRel s u := by
  refine runInstr_op ?_ h
  exact OpAt.getCpu_bind (OpAt.bind (push8_op _ _) fun _ _ _ => OpAt.pure _)

theorem execPhk_op {s u : State} (h : execPhk s = .next u) : OpRel s u := by
  refine runInstr_op ?_ h
  exact OpAt.getCpu_bind (OpAt.bind (push8_op _ _) fun _ _ _ => OpAt.pure _)

theorem execPhd_op {s u : State} (h : execPhd s = .next u) : OpRel s u := by
  refine runInstr_op ?_ h
  exact OpAt.getCpu_bind (OpAt.bind (push16_op _ _) fun _ _ _ => OpAt.pure _)

theorem execPla_op {s u : State} (h : execPla s = .next u) : OpRel s u := by
  refine runInstr_op (OpAt.getCpu_bind ?_) h
  exact OpAt.bind (pullW_op _ s.cpu.mW) fun v _ _ =>
    OpAt.onCpu_bind (f := fun b => (b.setAcc s.cpu.mW v).setNZ v s.cpu.mW) (fun hk => (hk.setAcc _ _).setNZ _ _) (OpAt.pure _)

theorem execPlx_op {s u : State} (h : execPlx s = .next u) : OpRel s u := by
  refine runInstr_op (OpAt.getCpu_bind ?_) h
  refine OpAt.bind (pullW_op _ s.cpu.xW) fun v t ht =>
    OpAt.onCpu_bind (f := fun b => (b.setX s.cpu.xW v).setNZ v s.cpu.xW) (fun hk => ?_) (OpAt.pure _)
  rw [show s.cpu.xW = t.cpu.xW by rw [Cpu.xW, Cpu.xW, Cpu.flag, Cpu.flag, pullW_p ht]]
  exact (hk.setX _).setNZ _ _

theorem execPly_op {s u : State} (h : execPly s = .next u) : OpRel s u := by
  refine runInstr_op (OpAt.getCpu_bind ?_) h
  refine OpAt.bind (pullW_op _ s.cpu.xW) fun v t ht =>
    OpAt.onCpu_bind (f := fun b => (b.setY s.cpu.xW v).setNZ v s.cpu.xW) (fun hk => ?_) (OpAt.pure _)
  rw [show s.cpu.xW = t.cpu.xW by rw [Cpu.xW, Cpu.xW, Cpu.flag, Cpu.flag, pullW_p ht]]
  exact (hk.setY _).setNZ _ _

theorem execPlp_op {s u : State} (h : execPlp s = .next u) : OpRel s u := by
  refine runInstr_op ?_ h
  exact OpAt.bind (pull8_op _) fun _ _ _ =>
    OpAt.onCpu_bind (fun hk => Cpu.Ok.writeP _ fun he => (hk.emulation he).2.2) (OpAt.pure _)

theorem execPlb_op {s u : State} (h : execPlb s = .next u) : OpRel s u := by
  refine runInstr_op (OpAt.bind (pull8_op _) fun v t _ => OpAt.onCpu_bind (fun hk => ?_) (OpAt.pure _)) h
  exact setNZ_ok hk rfl rfl rfl rfl rfl

theorem execPld_op {s u : State} (h : execPld s = .next u) : OpRel s u := by
  refine runInstr_op (OpAt.bind (pull16_op _) fun v t _ => OpAt.onCpu_bind (fun hk => ?_) (OpAt.pure _)) h
  exact setNZ_ok hk rfl rfl rfl rfl rfl

theorem execPea_op {v : Word} {s u : State} (h : execPea v s = .next u) : OpRel s u := by
  refine runInstr_op ?_ h
  exact OpAt.bind (push16_op _ _) fun _ _ _ => OpAt.pure _

theorem execPei_op {o : Byte} {s u : State} (h : execPei o s = .next u) : OpRel s u := by
  refine runInstr_op ?_ h
  exact OpAt.getCpu_bind (OpAt.bus_bind (memRead_isBus _ _) fun _ _ _ =>
    OpAt.bind (push16_op _ _) fun _ _ _ => OpAt.pure _)

theorem execPer_op {rel : Word} {s u : State} (h : execPer rel s = .next u) : OpRel s u := by
  refine runInstr_op ?_ h
  exact OpAt.getCpu_bind (OpAt.bind (push16_op _ _) fun _ _ _ => OpAt.pure _)

theorem execAdc_op {src : Src} {s u : State} (h : execAdc src s = .next u) : OpRel s u :=
  arithInstr_op h

theorem execSbc_op {src : Src} {s u : State} (h : execSbc src s = .next u) : OpRel s u :=
  arithInstr_op h

theorem execCmp_op {src : Src} {s u : State} (h : execCmp src s = .next u) : OpRel s u :=
  readInstr_op (w := Cpu.mW) (f := fun w v b => b.compare w (b.acc w) v) (fun _ hk => compare_ok hk) h

theorem execCpx_op {src : Src} {s u : State} (h : execCpx src s = .next u) : OpRel s u :=
  readInstr_op (w := Cpu.xW) (f := fun w v b => b.compare w b.x v) (fun _ hk => compare_ok hk) h

theorem execCpy_op {src : Src} {s u : State} (h : execCpy src s = .next u) : OpRel s u :=
  readInstr_op (w := Cpu.xW) (f := fun w v b => b.compare w b.y v) (fun _ hk => compare_ok hk) h

theorem execAnd_op {src : Src} {s u : State} (h : execAnd src s = .next u) : OpRel s u :=
  logicInstr_op h

theorem execOra_op {src : Src} {s u : State} (h : execOra src s = .next u) : OpRel s u :=
  logicInstr_op h

theorem execEor_op {src : Src} {s u : State} (h : execEor src s = .next u) : OpRel s u :=
  logicInstr_op h

theorem execBit_op {src : Src} {s u : State} (h : execBit src s = .next u) : OpRel s u := by
  have hb : ∀ w v imm, s.cpu.Ok → (s.cpu.bitTest w v imm).Ok := by
    intro w v imm hk
    have hz := hk.setFlag (i := fZ) (by decide) (by decide) (by decide) (decide (s.cpu.acc w &&& v = 0))
    simp only [Cpu.bitTest]
    split_ifs
    · exact hz
    · exact (hz.setFlag (by decide) (by decide) (by decide) _).setFlag (by decide) (by decide) (by decide) _
  cases src with
  | imm _ => exact readInstr_op (w := Cpu.mW) (f := fun w v b => b.bitTest w v true) (fun v hk => hb _ v _ hk) h
  | mem _ => exact readInstr_op (w := Cpu.mW) (f := fun w v b => b.bitTest w v false) (fun v hk => hb _ v _ hk) h

theorem execTsb_op {m : AddrMode} {s u : State} (h : execTsb m s = .next u) : OpRel s u :=
  runInstr_op testAndChange_op h

theorem execTrb_op {m : AddrMode} {s u : State} (h : execTrb m s = .next u) : OpRel s u :=
  runInstr_op testAndChange_op h

theorem execInc_op {op : Rmw} {s u : State} (h : execInc op s = .next u) : OpRel s u := by
  refine runInstr_op ?_ h
  exact modifyOperand_op fun _ _ _ => OpAt.pure _

theorem execDec_op {op : Rmw} {s u : State} (h : execDec op s = .next u) : OpRel s u := by
  refine runInstr_op ?_ h
  exact modifyOperand_op fun _ _ _ => OpAt.pure _

theorem execInx_op {s u : State} (h : execInx s = .next u) : OpRel s u := by
  refine regInstr_op (fun hk => ?_) h
  exact (hk.setX _).setNZ _ _

theorem execIny_op {s u : State} (h : execIny s = .next u) : OpRel s u := by
  refine regInstr_op (fun hk => ?_) h
  exact (hk.setY _).setNZ _ _

theorem execDex_op {s u : State} (h : execDex s = .next u) : OpRel s u := by
  refine regInstr_op (fun hk => ?_) h
  exact (hk.setX _).setNZ _ _

theorem execDey_op {s u : State} (h : execDey s = .next u) : OpRel s u := by
  refine regInstr_op (fun hk => ?_) h
  exact (hk.setY _).setNZ _ _

theorem execAsl_op {op : Rmw} {s u : State} (h : execAsl op s = .next u) : OpRel s u := by
  refine runInstr_op ?_ h
  exact modifyOperand_op fun _ _ _ =>
    OpAt.onCpu_bind (fun hk => hk.setFlag (by decide) (by decide) (by decide) _) (OpAt.pure _)

theorem execLsr_op {op : Rmw} {s u : State} (h : execLsr op s = .next u) : OpRel s u := by
  refine runInstr_op ?_ h
  exact modifyOperand_op fun _ _ _ =>
    OpAt.onCpu_bind (fun hk => hk.setFlag (by decide) (by decide) (by decide) _) (OpAt.pure _)

theorem execRol_op {op : Rmw} {s u : State} (h : execRol op s = .next u) : OpRel s u := by
  refine runInstr_op ?_ h
  exact modifyOperand_op fun _ _ _ => OpAt.getCpu_bind <|
    OpAt.onCpu_bind (fun hk => hk.setFlag (by decide) (by decide) (by decide) _) (OpAt.pure _)

theorem execRor_op {op : Rmw} {s u : State} (h : execRor op s = .next u) : OpRel s u := by
  refine runInstr_op ?_ h
  exact modifyOperand_op fun _ _ _ => OpAt.getCpu_bind <|
    OpAt.onCpu_bind (fun hk => hk.setFlag (by decide) (by decide) (by decide) _) (OpAt.pure _)

theorem execBpl_op {rel : Byte} {s u : State} (h : execBpl rel s = .next u) : OpRel s u :=
  branchInstr_op h

theorem execBmi_op {rel : Byte} {s u : State} (h : execBmi rel s = .next u) : OpRel s u :=
  branchInstr_op h

theorem execBvc_op {rel : Byte} {s u : State} (h : execBvc rel s = .next u) : OpRel s u :=
  branchInstr_op h

theorem execBvs_op {rel : Byte} {s u : State} (h : execBvs rel s = .next u) : OpRel s u :=
  branchInstr_op h

theorem execBcc_op {rel : Byte} {s u : State} (h : execBcc rel s = .next u) : OpRel s u :=
  branchInstr_op h

theorem execBcs_op {rel : Byte} {s u : State} (h : execBcs rel s = .next u) : OpRel s u :=
  branchInstr_op h

theorem execBne_op {rel : Byte} {s u : State} (h : execBne rel s = .next u) : OpRel s u :=
  branchInstr_op h

theorem execBeq_op {rel : Byte} {s u : State} (h : execBeq rel s = .next u) : OpRel s u :=
  branchInstr_op h

theorem execBra_op {rel : Byte} {s u : State} (h : execBra rel s = .next u) : OpRel s u :=
  branchInstr_op h

theorem execBrl_op {rel : Word} {s u : State} (h : execBrl rel s = .next u) : OpRel s u :=
  branchTo_op h

theorem execJmp_op {a : Word} {s u : State} (h : execJmp a s = .next u) : OpRel s u :=
  regInstr_op pc_ok h

theorem execJmpInd_op {a : Word} {s u : State} (h : execJmpInd a s = .next u) : OpRel s u := by
  refine runInstr_op ?_ h
  exact OpAt.bus_bind (memRead_isBus _ _) fun _ _ _ => OpAt.bind (jumpTo_op _) fun _ _ _ => OpAt.pure _

theorem execJmpIndX_op {a : Word} {s u : State} (h : execJmpIndX a s = .next u) : OpRel s u := by
  refine runInstr_op ?_ h
  exact OpAt.bind (OpAt.getCpu_bind (OpAt.bus (memRead_isBus _ _))) fun _ _ _ =>
    OpAt.bind (jumpTo_op _) fun _ _ _ => OpAt.pure _

theorem execJml_op {a : Addr} {s u : State} (h : execJml a s = .next u) : OpRel s u := by
  refine regInstr_op (fun hk => ?_) h
  exact Cpu.Ok.of_same hk rfl rfl rfl rfl rfl rfl

theorem execJmlInd_op {a : Word} {s u : State} (h : execJmlInd a s = .next u) : OpRel s u := by
  refine runInstr_op ?_ h
  exact OpAt.bus_bind (memRead24_isBus _) fun _ _ _ => OpAt.bind (jumpLong_op _) fun _ _ _ => OpAt.pure _

theorem execJsr_op {a : Word} {s u : State} (h : execJsr a s = .next u) : OpRel s u := by
  refine runInstr_op ?_ h
  exact OpAt.getCpu_bind (OpAt.bind (push16_op _ _) fun _ _ _ =>
    OpAt.bind (jumpTo_op _) fun _ _ _ => OpAt.pure _)

theorem execJsrIndX_op {a : Word} {s u : State} (h : execJsrIndX a s = .next u) : OpRel s u := by
  refine runInstr_op ?_ h
  exact OpAt.getCpu_bind (OpAt.bind (push16_op _ _) fun _ _ _ =>
    OpAt.bind (OpAt.getCpu_bind (OpAt.bus (memRead_isBus _ _))) fun _ _ _ =>
      OpAt.bind (jumpTo_op _) fun _ _ _ => OpAt.pure _)

theorem execJsl_op {a : Addr} {s u : State} (h : execJsl a s = .next u) : OpRel s u := by
  refine runInstr_op ?_ h
  exact OpAt.getCpu_bind (OpAt.bind (push8_op _ _) fun _ _ _ => OpAt.getCpu_bind
    (OpAt.bind (push16_op _ _) fun _ _ _ => OpAt.bind (jumpLong_op _) fun _ _ _ => OpAt.pure _))

theorem execRts_op {s u : State} (h : execRts s = .next u) : OpRel s u := by
  refine runInstr_op ?_ h
  exact OpAt.bind (pull16_op _) fun _ _ _ => OpAt.bind (jumpTo_op _) fun _ _ _ => OpAt.pure _

theorem execRtl_op {s u : State} (h : execRtl s = .next u) : OpRel s u := by
  refine runInstr_op ?_ h
  exact OpAt.bind (pull16_op _) fun _ _ _ => OpAt.bind (jumpTo_op _) fun _ _ _ =>
    OpAt.bind (pull8_op _) fun _ _ _ => OpAt.onCpu_bind (fun hk => hk.of_same rfl rfl rfl rfl rfl rfl) (OpAt.pure _)

theorem execRti_op {s u : State} (h : execRti s = .next u) : OpRel s u := by
  refine runInstr_op ?_ h
  exact OpAt.bind (returnFromInterrupt_op _) fun _ _ _ => OpAt.pure _

theorem execBrk_op {sig : Byte} {s u : State} (h : execBrk sig s = .next u) : OpRel s u := by
  refine runInstr_op ?_ h
  exact OpAt.getCpu_bind (OpAt.bind (interrupt_op _ _ _) fun _ _ _ => OpAt.pure _)

theorem execCop_op {sig : Byte} {s u : State} (h : execCop sig s = .next u) : OpRel s u := by
  refine runInstr_op ?_ h
  exact OpAt.getCpu_bind (OpAt.bind (interrupt_op _ _ _) fun _ _ _ => OpAt.pure _)

theorem execClc_op {s u : State} (h : execClc s = .next u) : OpRel s u := by
  refine regInstr_op (fun hk => ?_) h
  exact flag_ok (by decide) (by decide) (by decide) hk

theorem execSec_op {s u : State} (h : execSec s = .next u) : OpRel s u := by
  refine regInstr_op (fun hk => ?_) h
  exact flag_ok (by decide) (by decide) (by decide) hk

theorem execCli_op {s u : State} (h : execCli s = .next u) : OpRel s u := by
  refine regInstr_op (fun hk => ?_) h
  exact flag_ok (by decide) (by decide) (by decide) hk

theorem execSei_op {s u : State} (h : execSei s = .next u) : OpRel s u := by
  refine regInstr_op (fun hk => ?_) h
  exact flag_ok (by decide) (by decide) (by decide) hk

theorem execCld_op {s u : State} (h : execCld s = .next u) : OpRel s u := by
  refine regInstr_op (fun hk => ?_) h
  exact flag_ok (by decide) (by decide) (by decide) hk

theorem execSed_op {s u : State} (h : execSed s = .next u) : OpRel s u := by
  refine regInstr_op (fun hk => ?_) h
  exact flag_ok (by decide) (by decide) (by decide) hk

theorem execClv_op {s u : State} (h : execClv s = .next u) : OpRel s u := by
  refine regInstr_op (fun hk => ?_) h
  exact flag_ok (by decide) (by decide) (by decide) hk

theorem execRep_op {v : Byte} {s u : State} (h : execRep v s = .next u) : OpRel s u := by
  refine regInstr_op (fun hk => ?_) h
  exact Cpu.Ok.writeP _ fun he => (hk.emulation he).2.2

theorem execSep_op {v : Byte} {s u : State} (h : execSep v s = .next u) : OpRel s u := by
  refine regInstr_op (fun hk => ?_) h
  exact Cpu.Ok.writeP _ fun he => (hk.emulation he).2.2

theorem execXce_op {s u : State} (h : execXce s = .next u) : OpRel s u :=
  regInstr_op Cpu.Ok.exchangeModes h

theorem execNop_op {s u : State} (h : execNop s = .next u) : OpRel s u :=
  regInstr_op id h

theorem execWdm_op {v : Byte} {s u : State} (h : execWdm v s = .next u) : OpRel s u :=
  regInstr_op id h

theorem execWai_op {s u : State} (h : execWai s = .next u) : OpRel s u := by
  refine regInstr_op (fun hk => ?_) h
  exact Cpu.Ok.of_same hk rfl rfl rfl rfl rfl rfl

theorem execStp_op {s u : State} (h : execStp s = .next u) : OpRel s u := by
  refine regInstr_op (fun hk => ?_) h
  exact Cpu.Ok.of_same hk rfl rfl rfl rfl rfl rfl

/-- What every completed instruction leaves as it was, and what it keeps. -/
theorem exec_op {i : Instr} {s u : State} (h : exec i s = .next u) : OpRel s u := by
  cases i
  case lda => exact execLda_op h
  case ldx => exact execLdx_op h
  case ldy => exact execLdy_op h
  case sta => exact execSta_op h
  case stx => exact execStx_op h
  case sty => exact execSty_op h
  case stz => exact execStz_op h
  case tax => exact execTax_op h
  case tay => exact execTay_op h
  case txa => exact execTxa_op h
  case tya => exact execTya_op h
  case txy => exact execTxy_op h
  case tyx => exact execTyx_op h
  case tsx => exact execTsx_op h
  case txs => exact execTxs_op h
  case tcs => exact execTcs_op h
  case tsc => exact execTsc_op h
  case tcd => exact execTcd_op h
  case tdc => exact execTdc_op h
  case xba => exact execXba_op h
  case mvn => exact execMvn_op h
  case mvp => exact execMvp_op h
  case pha => exact execPha_op h
  case phx => exact execPhx_op h
  case phy => exact execPhy_op h
  case php => exact execPhp_op h
  case phb => exact execPhb_op h
  case phk => exact execPhk_op h
  case phd => exact execPhd_op h
  case pla => exact execPla_op h
  case plx => exact execPlx_op h
  case ply => exact execPly_op h
  case plp => exact execPlp_op h
  case plb => exact execPlb_op h
  case pld => exact execPld_op h
  case pea => exact execPea_op h
  case pei => exact execPei_op h
  case per => exact execPer_op h
  case adc => exact execAdc_op h
  case sbc => exact execSbc_op h
  case cmp => exact execCmp_op h
  case cpx => exact execCpx_op h
  case cpy => exact execCpy_op h
  case and => exact execAnd_op h
  case ora => exact execOra_op h
  case eor => exact execEor_op h
  case bit => exact execBit_op h
  case tsb => exact execTsb_op h
  case trb => exact execTrb_op h
  case inc => exact execInc_op h
  case dec => exact execDec_op h
  case inx => exact execInx_op h
  case iny => exact execIny_op h
  case dex => exact execDex_op h
  case dey => exact execDey_op h
  case asl => exact execAsl_op h
  case lsr => exact execLsr_op h
  case rol => exact execRol_op h
  case ror => exact execRor_op h
  case bpl => exact execBpl_op h
  case bmi => exact execBmi_op h
  case bvc => exact execBvc_op h
  case bvs => exact execBvs_op h
  case bcc => exact execBcc_op h
  case bcs => exact execBcs_op h
  case bne => exact execBne_op h
  case beq => exact execBeq_op h
  case bra => exact execBra_op h
  case brl => exact execBrl_op h
  case jmp => exact execJmp_op h
  case jmpInd => exact execJmpInd_op h
  case jmpIndX => exact execJmpIndX_op h
  case jml => exact execJml_op h
  case jmlInd => exact execJmlInd_op h
  case jsr => exact execJsr_op h
  case jsrIndX => exact execJsrIndX_op h
  case jsl => exact execJsl_op h
  case rts => exact execRts_op h
  case rtl => exact execRtl_op h
  case rti => exact execRti_op h
  case brk => exact execBrk_op h
  case cop => exact execCop_op h
  case clc => exact execClc_op h
  case sec => exact execSec_op h
  case cli => exact execCli_op h
  case sei => exact execSei_op h
  case cld => exact execCld_op h
  case sed => exact execSed_op h
  case clv => exact execClv_op h
  case rep => exact execRep_op h
  case sep => exact execSep_op h
  case xce => exact execXce_op h
  case nop => exact execNop_op h
  case wdm => exact execWdm_op h
  case wai => exact execWai_op h
  case stp => exact execStp_op h
  all_goals
    refine runAudio_op ?_ h
    rfl

end Sys2Proof.Laws
end

