-- ==== Sys2Proof/Laws/Ppu.lean ====
section
/-!
SUPPORT. What rendering a line gives, pixel by pixel: the first rank that shows something wins (R898, R899), and a pixel's colour number
plane by plane (R908).
-/

namespace Sys2Proof.Laws

open Sys2Proof.Machine

/-- The first value that is not 0, else 0. -/
def firstShown (l : List Byte) : Byte := (l.find? (· ≠ 0)).getD 0

theorem firstShown_cons (v : Byte) (l : List Byte) : firstShown (v :: l) = if v ≠ 0 then v else firstShown l := by
  unfold firstShown
  by_cases h : v = 0#8
  · subst h; rfl
  · rw [List.find?_cons_of_pos (by simpa using h)]
    exact (if_pos h).symm

theorem drawLayer_length {u : Ppu} {y : Nat} {line : List Byte} {r : Nat × PriSel} (h : line.length = 256) :
    (drawLayer u y line r).length = 256 := by
  unfold drawLayer
  split_ifs
  · simp [List.length_zipWith, h]
  · exact h

/-- The index buffer of a line has 256 pixels. -/
theorem lineIndices_length (u : Ppu) (y : Nat) : (lineIndices u y).length = 256 := by
  have : ∀ (rs : List (Nat × PriSel)) (line : List Byte), line.length = 256 →
      (rs.foldl (drawLayer u y) line).length = 256 := by
    intro rs
    induction rs with
    | nil => exact fun _ h => h
    | cons r rs ih => exact fun line h => ih _ (drawLayer_length h)
  exact this _ _ List.length_replicate

/-- What one rank does to one pixel: an unclaimed one takes what the rank shows there, if its layer is enabled (R899). -/
theorem drawLayer_get {u : Ppu} {y x : Nat} (hx : x < 256) {l : List Byte} (h : l.length = 256) (r : Nat × PriSel) :
    (drawLayer u y l r)[x]? = (l[x]?).map fun old =>
      if u.tm.getLsbD r.1 then (if old ≠ 0 then old else layerPixel u r.1 r.2 y x) else old := by
  have hxl : x < l.length := by omega
  unfold drawLayer
  split_ifs
  · rw [List.getElem?_zipWith, List.getElem?_range hx, List.getElem?_eq_getElem hxl]
    rfl
  · rw [Option.map_id']

theorem foldl_drawLayer_get (u : Ppu) (y : Nat) {x : Nat} (hx : x < 256) (rs : List (Nat × PriSel)) :
    ∀ l : List Byte, l.length = 256 → (rs.foldl (drawLayer u y) l)[x]? = (l[x]?).map fun old =>
      if old ≠ 0 then old
      else firstShown ((rs.filter fun r => u.tm.getLsbD r.1).map fun r => layerPixel u r.1 r.2 y x) := by
  induction rs with
  | nil =>
    intro l h
    rw [List.foldl_nil, List.getElem?_eq_getElem (by omega : x < l.length)]
    simp only [Option.map_some, Option.some.injEq]
    split_ifs with h0
    · rfl
    · exact (not_not.1 h0).trans rfl
  | cons r rs ih =>
    intro l h
    rw [List.foldl_cons, ih _ (drawLayer_length h), drawLayer_get hx h, List.getElem?_eq_getElem (by omega : x < l.length)]
    simp only [Option.map_some, Option.some.injEq, List.filter_cons]
    generalize l[x] = old
    by_cases ht : u.tm.getLsbD r.1
    · rw [if_pos ht, if_pos ht, List.map_cons, firstShown_cons]
      by_cases h0 : old ≠ 0
      · rw [if_pos h0, if_pos h0, if_pos h0]
      · rw [if_neg h0, if_neg h0]
    · rw [if_neg ht, if_neg ht]

/-- A pixel of a line is what the first enabled rank that shows something there shows, else 0 (R898, R899). -/
theorem lineIndices_get (u : Ppu) (y : Nat) {x : Nat} (hx : x < 256) :
    (lineIndices u y)[x]? = some (firstShown (((ranks u.mode u.bg3prio).filter fun r => u.tm.getLsbD r.1).map
      fun r => layerPixel u r.1 r.2 y x)) := by
  rw [lineIndices, foldl_drawLayer_get u y hx _ _ (List.length_replicate ..), List.getElem?_replicate, if_pos hx]
  rfl

/-- A visible line of an implemented mode is painted, and its marks are raised (R898, R902). -/
theorem renderLine_run {s : State} {y : Nat} (h : s.ppu.mode = 0 ∨ s.ppu.mode = 1 ∨ s.ppu.mode = 3) :
    (renderLine y).run s = .ok () ((s.onMarks (lineMarks s.ppu)).onPpu (paintLine · y)) := by
  show (if _ then (set _ : M Unit) else _) s = _
  rw [if_pos h]; rfl

/-- The planes of a pixel one by one: plane k is in pair k / 2, in the low byte if it is even (R908). -/
theorem planePair_sum (vram : Cells Word) (w c n : Nat) :
    ((List.range n).map (planePair vram w c)).sum = ((List.range (2 * n)).map fun k =>
      if (Cells.read 0 ((w + 8 * (k / 2)) % 0x8000) vram).getLsbD (8 * (k % 2) + 7 - c) then 2 ^ k else 0).sum := by
  induction n with
  | zero => rfl
  | succ n ih =>
    rw [List.range_succ, List.map_append, List.sum_append, ih, show 2 * (n + 1) = 2 * n + 1 + 1 by ring, List.range_succ,
      List.range_succ]
    simp only [List.map_append, List.sum_append, List.map_cons, List.map_nil, List.sum_cons, List.sum_nil]
    rw [show 2 * n / 2 = n by omega, show (2 * n + 1) / 2 = n by omega, show 2 * n % 2 = 0 by omega,
      show (2 * n + 1) % 2 = 1 by omega, planePair]
    generalize Cells.read 0 ((w + 8 * n) % 0x8000) vram = word
    cases h1 : word.getLsbD (7 - c) <;> cases h2 : word.getLsbD (15 - c) <;> simp [Nat.add_assoc]

end Sys2Proof.Laws
end

