-- ==== Sys2Proof/Laws/Step.lean ====
section
/-!
SUPPORT. What the scheduler's handlers and a whole step can do: the parameters stay, time does not go back, the invariant is
kept, and no due event is left.
-/

namespace Sys2Proof.Laws

open Sys2Proof Sys2Proof.Machine

variable {α β : Type}

/-- What every part of a completed step leaves as it was, and what it keeps. -/
structure StepRel (s t : State) : Prop where
  cfg       : t.cfg = s.cfg
  fatal     : t.fatal = s.fatal
  resetDone : t.resetDone = s.resetDone
  master    : s.sched.master ≤ t.sched.master
  inv       : s.cpu.Ok ∧ s.DevInv → t.cpu.Ok ∧ t.DevInv

theorem StepRel.refl (s : State) : StepRel s s := ⟨rfl, rfl, rfl, Nat.le_refl _, id⟩

theorem StepRel.trans {s t u : State} (h : StepRel s t) (h' : StepRel t u) : StepRel s u :=
  ⟨h'.cfg.trans h.cfg, h'.fatal.trans h.fatal, h'.resetDone.trans h.resetDone, Nat.le_trans h.master h'.master, h'.inv ∘ h.inv⟩

theorem OpRel.step {s t : State} (h : OpRel s t) : StepRel s t :=
  ⟨h.cfg, h.fatal, h.resetDone, h.master, fun hi => ⟨h.cpu hi.1, h.dev hi.2⟩⟩

/-! ## The line timeline -/

/-- EOL events from line v on until line 224 is entered (R854). -/
def linesLeft (v : Nat) : Nat := if v < 224 then 224 - v else 486 - v

/-- When the frame will be complete, with line event `e` queued during line v (R853, R854, R859). -/
def deadline (cfg : Config) (v : Nat) (e : Event) : Nat :=
  e.ts + (if e.kind = .eol then 0 else cfg.lineMaster - cfg.hblankMaster) + (linesLeft v - 1) * linePeriod cfg

/-- What every part of a completed step does to the line timeline: one line event stays queued, agreeing with the HBlank bit, and
either the frame is complete or the time at which it will be has not changed. -/
def LineRel (s t : State) : Prop :=
  ∀ e, s.lineState = ([e], decide (e.kind = .eol)) → s.sched.vline < 262 →
    ∃ e', t.lineState = ([e'], decide (e'.kind = .eol)) ∧ t.sched.vline < 262 ∧ t.cfg = s.cfg ∧
      (s.sched.frameComplete = true → t.sched.frameComplete = true) ∧
      (t.sched.frameComplete = true ∨ deadline t.cfg t.sched.vline e' = deadline s.cfg s.sched.vline e)

/-- What touches none of the line event, the HBlank bit, the line counter and the frame flag. -/
theorem LineRel.of_same {s t : State} (h1 : t.lineState = s.lineState) (h2 : t.sched.vline = s.sched.vline)
    (h3 : t.cfg = s.cfg) (h4 : t.sched.frameComplete = s.sched.frameComplete) : LineRel s t :=
  fun e he hv => ⟨e, h1.trans he, h2 ▸ hv, h3, fun h => h4.trans h, Or.inr (by rw [h2, h3])⟩

theorem LineRel.refl (s : State) : LineRel s s := .of_same rfl rfl rfl rfl

theorem LineRel.trans {s t u : State} (h : LineRel s t) (h' : LineRel t u) : LineRel s u := by
  intro e he hv
  obtain ⟨e1, h1, v1, c1, m1, d1⟩ := h e he hv
  obtain ⟨e2, h2, v2, c2, m2, d2⟩ := h' e1 h1 v1
  refine ⟨e2, h2, v2, c2.trans c1, m2 ∘ m1, ?_⟩
  rcases d1 with d1 | d1
  · exact Or.inl (m2 d1)
  · exact d2.imp_right (·.trans d1)

theorem OpRel.lines {s t : State} (h : OpRel s t) : LineRel s t := .of_same h.line h.vline h.cfg h.frame

/-! ## Rendering -/

/-- A visible line painted keeps the PPU's part of the invariant. -/
theorem paintLine_ok {u : Ppu} {y : Nat} (hy : y < 224) (h : PpuOk u) : PpuOk (paintLine u y) := by
  have hrow : ((lineIndices u y).map (pcache u)).length = 256 := by rw [List.length_map, lineIndices_length]
  have hrows : ∀ c : Cells (List Rgba), (∀ p ∈ c, p.2.length = 256) →
      ∀ p ∈ Cells.write blankRow y ((lineIndices u y).map (pcache u)) c, p.2.length = 256 := by
    intro c hc p hp
    rcases mem_write hp with rfl | hp
    · exact hrow
    · exact hc p hp
  have h0 : ∀ p ∈ u.fb0, p.2.length = 256 := fun p hp => h.rows p (List.mem_append_left _ hp)
  have h1 : ∀ p ∈ u.fb1, p.2.length = 256 := fun p hp => h.rows p (List.mem_append_right _ hp)
  unfold paintLine
  dsimp only
  split_ifs
  · refine { h with fb1 := write_wf hy h.fb1, line := lineIndices_length u y, rows := fun p hp => ?_ }
    rcases List.mem_append.1 hp with hp | hp
    · exact h0 p hp
    · exact hrows _ h1 p hp
  · refine { h with fb0 := write_wf hy h.fb0, line := lineIndices_length u y, rows := fun p hp => ?_ }
    rcases List.mem_append.1 hp with hp | hp
    · exact hrows _ h0 p hp
    · exact h1 p hp

/-- What rendering a visible line can do: it is no other than a bus access's. -/
theorem renderLine_isBus {y : Nat} (hy : y < 224) : IsBus (renderLine y) := by
  intro s a t h
  simp only [renderLine, EStateM.run_bind, EStateM.run_get] at h
  split at h
  · cases h
    exact BusRel.of_dev rfl rfl rfl rfl rfl rfl fun hd =>
      have hm : (s.onMarks (lineMarks s.ppu)).DevInv := { hd with }
      DevInv.onPpu hm (paintLine_ok hy)
  · cases h

/-! ## The events' handlers -/

/-- The state in which the HBLANK handler ends, from the state in which the line is drawn (R853). -/
def hblankEnd (ts : Nat) (cfg : Config) (u : State) : State :=
  (u.onIo fun r => { r with hblank := true }).onSched (·.push .eol (ts + (cfg.lineMaster - cfg.hblankMaster)))

/-- The HBLANK handler: a line drawn at most, then the HBlank bit and the EOL event (R853). -/
theorem handleHblank_cases {s t : State} {ts : Nat} {a : Unit} (h : (handleHblank ts).run s = .ok a t) :
    ∃ u, BusRel s u ∧ t = hblankEnd ts s.cfg u := by
  simp only [handleHblank, EStateM.run_bind, EStateM.run_get] at h
  split at h
  · rename_i hv
    cases hr : (renderLine s.sched.vline).run s with
    | error e u => simp [EStateM.run_bind, hr] at h
    | ok b u =>
      simp only [EStateM.run_bind, hr, EStateM.run_modify, pushEvent_run] at h
      cases h
      exact ⟨u, renderLine_isBus hv s b u hr, rfl⟩
  · simp only [EStateM.run_bind, EStateM.run_modify, pushEvent_run] at h
    cases h
    exact ⟨s, BusRel.refl s, rfl⟩

theorem hblankEnd_step (ts : Nat) (cfg : Config) (u : State) : StepRel u (hblankEnd ts cfg u) :=
  ⟨rfl, rfl, rfl, Nat.le_refl _, fun hi =>
    have hd : (u.onIo fun r => { r with hblank := true }).DevInv := { hi.2 with }
    ⟨hi.1, DevInv.push _ _ (by decide) hd⟩⟩

/-- The state at the start of the EOL handler: the line counter moved on, out of HBLANK. -/
def eolStart (s : State) : State :=
  (s.onIo fun r => { r with hblank := false }).onSched fun q => { q with vline := q.vline + 1 }

/-- The state at line 224 before the NMI: VBlank and the NMI flag set, the frame complete (R854). -/
def eolVblank (s : State) : State :=
  (s.onIo fun r => { r with vblank := true, rdnmiFlag := true }).onSched fun q => { q with frameComplete := true }

/-- The state at the end of line 261: line 0, out of VBlank (R854). -/
def eolWrap (s : State) : State :=
  (s.onSched fun q => { q with vline := 0 }).onIo fun r => { r with vblank := false, rdnmiFlag := false }

/-- The NMI of the EOL handler at line 224, where it is enabled (R804, R854). -/
def eolNmi (s : State) : EStateM.Result Stop State Unit := if s.io.nmiEn then fireNmi.run s else .ok () s

/-- The state from which the EOL handler inserts the next HBLANK event, by cases on the line it enters (R854). -/
def eolBody (s : State) : EStateM.Result Stop State Unit :=
  if s.sched.vline + 1 = 224 then eolNmi (eolVblank (eolStart s))
  else if s.sched.vline + 1 = 262 then .ok () (eolWrap (eolStart s))
  else .ok () (eolStart s)

/-- The EOL handler: its body, then the next HBLANK event (R854). -/
theorem handleEol_cases (s : State) (ts : Nat) :
    (handleEol ts).run s = match eolBody s with
      | .ok _ t => .ok () (t.onSched (·.push .hblank (ts + s.cfg.hblankMaster)))
      | .error e t => .error e t := by
  by_cases h1 : s.sched.vline + 1 = 224
  · by_cases hn : s.io.nmiEn = true
    · have hrun : eolBody s = fireNmi.run (eolVblank (eolStart s)) := by
        simp [eolBody, eolNmi, h1, eolVblank, eolStart, hn]
      simp only [handleEol, EStateM.run_bind, EStateM.run_get, EStateM.run_set, onSched_sched, onIo_sched, h1, if_true,
        EStateM.run_modify, onSched_io, onIo_io, hn]
      rw [hrun]
      cases hf : fireNmi.run (eolVblank (eolStart s)) with
      | error e t =>
        simp only [eolVblank, eolStart] at hf
        simp only [hf]
      | ok a t =>
        have hv : ¬t.sched.vline = 262 := by
          rw [(fireNmi_op _ a t hf).vline]
          simp [eolVblank, eolStart, h1]
        simp only [eolVblank, eolStart] at hf
        simp only [hf, hv, if_false, pushEvent_run]
    · have hrun : eolBody s = .ok () (eolVblank (eolStart s)) := by
        simp [eolBody, eolNmi, h1, eolVblank, eolStart, hn]
      rw [hrun]
      simp only [handleEol, EStateM.run_bind, EStateM.run_get, EStateM.run_set, onSched_sched, onIo_sched, h1, if_true,
        EStateM.run_modify, onSched_io, onIo_io, hn, Bool.false_eq_true, if_false, Nat.reduceEqDiff, pushEvent_run]
      rfl
  · by_cases h2 : s.sched.vline + 1 = 262
    · have hrun : eolBody s = .ok () (eolWrap (eolStart s)) := by simp [eolBody, h2]
      rw [hrun]
      simp only [handleEol, EStateM.run_bind, EStateM.run_get, EStateM.run_set, onSched_sched, onIo_sched, h2, if_true,
        EStateM.run_modify, Nat.reduceEqDiff, if_false, pushEvent_run]
      rfl
    · have hrun : eolBody s = .ok () (eolStart s) := by simp [eolBody, h1, h2]
      rw [hrun]
      simp only [handleEol, EStateM.run_bind, EStateM.run_get, EStateM.run_set, onSched_sched, onIo_sched, h1, h2, if_false,
        pushEvent_run]
      rfl

/-- The EOL handler (R854). -/
theorem handleEol_step {s t : State} {ts : Nat} {a : Unit} (h : (handleEol ts).run s = .ok a t) : StepRel s t := by
  rw [handleEol_cases] at h
  have hpush : ∀ u : State, StepRel u (u.onSched (·.push .hblank (ts + s.cfg.hblankMaster))) := fun u =>
    ⟨rfl, rfl, rfl, Nat.le_refl _, fun hi => ⟨hi.1, DevInv.push _ _ (by decide) hi.2⟩⟩
  have hbody : ∀ u, eolBody s = .ok a u → StepRel s u := by
    intro u hu
    unfold eolBody at hu
    split_ifs at hu with h1 h2
    · have hv : StepRel s (eolVblank (eolStart s)) :=
        ⟨rfl, rfl, rfl, Nat.le_refl _, fun hi => ⟨hi.1,
          { hi.2 with
            vline := by simp [eolVblank, eolStart, h1]
            vblank := by simp [eolVblank, eolStart, h1]
            rdnmi := fun _ => rfl
            irq := hi.2.irq }⟩⟩
      unfold eolNmi at hu
      split_ifs at hu
      · exact hv.trans (fireNmi_op _ _ _ hu).step
      · cases hu
        exact hv
    · cases hu
      exact ⟨rfl, rfl, rfl, Nat.le_refl _, fun hi => ⟨hi.1,
          { hi.2 with
            vline := by simp [eolWrap]
            vblank := by simp [eolWrap]
            rdnmi := fun h => h
            irq := hi.2.irq }⟩⟩
    · cases hu
      refine ⟨rfl, rfl, rfl, Nat.le_refl _, fun hi => ⟨hi.1, { hi.2 with vline := ?_, vblank := ?_ }⟩⟩
      · have := hi.2.vline
        simp only [eolStart, onSched_sched, onIo_sched]
        omega
      · have hb := hi.2.vblank
        show s.io.vblank = decide (224 ≤ s.sched.vline + 1)
        rw [hb, decide_eq_decide]
        omega
  cases hb : eolBody s with
  | error e u => rw [hb] at h; cases h
  | ok b u =>
    rw [hb] at h
    cases h
    exact (hbody u hb).trans (hpush u)

/-- The EOL handler's body and the line timeline: the line counter moves on, and at line 224 the frame is complete (R854). -/
theorem eolBody_line {s t : State} {a : Unit} (h : eolBody s = .ok a t) :
    t.lineState.1 = s.lineState.1 ∧ t.io.hblank = false ∧ t.cfg = s.cfg ∧
      ((s.sched.vline + 1 = 224 ∧ t.sched.vline = 224 ∧ t.sched.frameComplete = true) ∨
        (s.sched.vline + 1 ≠ 224 ∧ t.sched.vline = (if s.sched.vline + 1 = 262 then 0 else s.sched.vline + 1) ∧
          t.sched.frameComplete = s.sched.frameComplete)) := by
  unfold eolBody at h
  split_ifs at h with h1 h2
  · have key : ∀ u, OpRel (eolVblank (eolStart s)) u → u.lineState.1 = s.lineState.1 ∧ u.io.hblank = false ∧ u.cfg = s.cfg ∧
        u.sched.vline = 224 ∧ u.sched.frameComplete = true := fun u hu =>
      ⟨(congrArg Prod.fst hu.line).trans rfl, (congrArg Prod.snd hu.line).trans rfl, hu.cfg, hu.vline.trans h1, hu.frame⟩
    unfold eolNmi at h
    have := key t (by
      split_ifs at h
      · exact fireNmi_op _ _ _ h
      · cases h
        exact OpRel.refl _)
    exact ⟨this.1, this.2.1, this.2.2.1, Or.inl ⟨h1, this.2.2.2⟩⟩
  · cases h
    exact ⟨rfl, rfl, rfl, Or.inr ⟨h1, by rw [if_pos h2]; rfl, rfl⟩⟩
  · cases h
    exact ⟨rfl, rfl, rfl, Or.inr ⟨h1, by rw [if_neg h2]; rfl, rfl⟩⟩

/-- What handling an event other than the sentinel can do; the sentinel never completes (R852 to R857). -/
theorem handleEvent_step {s t : State} {e : Event} {a : Unit} (h : (handleEvent e).run s = .ok a t) :
    e.kind ≠ .sentinel ∧ StepRel s t := by
  unfold handleEvent at h
  split at h
  · rename_i hk
    obtain ⟨u, hu, rfl⟩ := handleHblank_cases h
    exact ⟨by rw [hk]; decide, hu.op.step.trans (hblankEnd_step _ _ _)⟩
  · rename_i hk
    exact ⟨by rw [hk]; decide, handleEol_step h⟩
  · rename_i hk
    exact ⟨by rw [hk]; decide, (fireNmi_op _ _ _ h).step⟩
  · cases h

/-- The state without the first event of its queue. -/
def popped (s : State) (rest : List Event) : State := s.onSched fun q => { q with queue := rest }

theorem linesLeft_pos {v : Nat} (h : v < 262) : 1 ≤ linesLeft v := by
  unfold linesLeft
  split_ifs <;> omega

/-- The lines left after one more EOL event, short of line 224. -/
theorem linesLeft_next {v : Nat} (h : v < 262) (h' : v + 1 ≠ 224) :
    linesLeft (if v + 1 = 262 then 0 else v + 1) - 1 + 1 = linesLeft v - 1 := by
  unfold linesLeft
  split_ifs <;> omega

/-- Handling the first event of the queue and the line timeline: HBLANK is followed by EOL and EOL by HBLANK, at the times that leave
the end of the frame where it was (R853, R854, R859). -/
theorem handleEvent_line {s t : State} {e : Event} {rest : List Event} {a : Unit} (hq : s.sched.queue = e :: rest)
    (h : (handleEvent e).run (popped s rest) = .ok a t) : LineRel s t := by
  intro x hx hv
  have hfilter : (e :: rest).filter (fun y => y.kind.isLine) = [x] := hq ▸ congrArg Prod.fst hx
  have hhb : s.io.hblank = decide (x.kind = .eol) := congrArg Prod.snd hx
  unfold handleEvent at h
  split at h
  · rename_i hk
    rw [List.filter_cons_of_pos (by rw [hk]; rfl)] at hfilter
    injection hfilter with hex hrest
    subst hex
    obtain ⟨u, hu, rfl⟩ := handleHblank_cases h
    have hul : u.sched.queue.filter (fun y => y.kind.isLine) = [] := (congrArg Prod.fst hu.line).trans hrest
    refine ⟨⟨.eol, e.ts + (s.cfg.lineMaster - s.cfg.hblankMaster), u.sched.seqNext⟩, ?_, hu.vline ▸ hv, hu.cfg,
      fun hf => hu.frame.trans hf, Or.inr ?_⟩
    · exact Prod.ext (filter_insertEvent_only rfl hul) rfl
    · have hv' : (hblankEnd e.ts (popped s rest).cfg u).sched.vline = s.sched.vline := hu.vline
      have hc' : (hblankEnd e.ts (popped s rest).cfg u).cfg = s.cfg := hu.cfg
      rw [hv', hc']
      simp [deadline, hk]
  · rename_i hk
    rw [List.filter_cons_of_pos (by rw [hk]; rfl)] at hfilter
    injection hfilter with hex hrest
    subst hex
    rw [handleEol_cases] at h
    cases hb : eolBody (popped s rest) with
    | error e u => rw [hb] at h; cases h
    | ok b u =>
      rw [hb] at h
      cases h
      obtain ⟨hl, hh, hc, hcase⟩ := eolBody_line hb
      have hul : u.sched.queue.filter (fun y => y.kind.isLine) = [] := hl.trans hrest
      refine ⟨⟨.hblank, e.ts + s.cfg.hblankMaster, u.sched.seqNext⟩, ?_, ?_, hc, ?_, ?_⟩
      · exact Prod.ext (filter_insertEvent_only rfl hul) hh
      · show u.sched.vline < 262
        rcases hcase with ⟨-, h2, -⟩ | ⟨-, h2, -⟩
        · omega
        · rw [h2]
          have : (popped s rest).sched.vline = s.sched.vline := rfl
          split_ifs <;> omega
      · intro hf
        show u.sched.frameComplete = true
        rcases hcase with ⟨-, -, h3⟩ | ⟨-, -, h3⟩
        · exact h3
        · exact h3.trans hf
      · rcases hcase with ⟨-, -, h3⟩ | ⟨h1, h2, -⟩
        · exact Or.inl h3
        · refine Or.inr ?_
          have hv1 : (popped s rest).sched.vline = s.sched.vline := rfl
          rw [hv1] at h1 h2
          have hn := linesLeft_next hv h1
          show deadline u.cfg u.sched.vline _ = _
          rw [h2, hc]
          show deadline s.cfg _ _ = _
          simp only [deadline, hk, reduceCtorEq, if_false, if_true, linePeriod]
          rw [← hn, Nat.add_mul]
          omega
  · rename_i hk
    rw [List.filter_cons_of_neg (by rw [hk]; decide)] at hfilter
    have ho := fireNmi_op _ _ _ h
    exact (OpRel.lines ho) x (Prod.ext hfilter hhb) hv
  · cases h

/-! ## Event processing -/

/-- The queue holds no due event: it is empty, or its head is later than the master clock. -/
def NoDueEvent (s : State) : Prop := ∀ e, s.sched.queue.head? = some e → s.sched.master < e.ts

/-- Popping an event other than the sentinel. -/
theorem pop_step {s : State} {e : Event} {rest : List Event} (hq : s.sched.queue = e :: rest) (he : e.kind ≠ .sentinel) :
    StepRel s (popped s rest) := by
  refine ⟨rfl, rfl, rfl, Nat.le_refl _, fun hi => ⟨hi.1, { hi.2 with queue := ?_, fresh := ?_, sentinel := ?_ }⟩⟩
  · have := hi.2.queue
    rw [hq, List.pairwise_cons] at this
    exact this.2
  · intro x hx
    exact hi.2.fresh x (by rw [hq]; exact List.mem_cons_of_mem _ hx)
  · have := hi.2.sentinel
    rw [hq, List.filter_cons_of_neg (by simpa using he)] at this
    exact this

/-- Event processing ends with no event due (R852). -/
theorem processEvents_step {n : Nat} {s t : State} {a : Unit} (h : (processEvents n).run s = .ok a t) :
    StepRel s t ∧ LineRel s t ∧ NoDueEvent t := by
  induction n generalizing s with
  | zero => cases h
  | succ n ih =>
    rw [processEvents, EStateM.run_bind, EStateM.run_get] at h
    dsimp only at h
    cases hq : s.sched.queue with
    | nil =>
      rw [hq] at h
      cases h
      exact ⟨StepRel.refl _, LineRel.refl _, fun e he => by rw [hq] at he; cases he⟩
    | cons e rest =>
      rw [hq] at h
      dsimp only at h
      split_ifs at h with hd
      · rw [EStateM.run_bind, EStateM.run_set] at h
        dsimp only at h
        obtain ⟨b, u, h1, h2⟩ := ok_of_bind h
        obtain ⟨hk, hu⟩ := handleEvent_step h1
        obtain ⟨h3, h4, h5⟩ := ih h2
        exact ⟨((pop_step hq hk).trans hu).trans h3, (handleEvent_line hq h1).trans h4, h5⟩
      · cases h
        refine ⟨StepRel.refl _, LineRel.refl _, fun x hx => ?_⟩
        rw [hq] at hx
        cases hx
        exact Nat.lt_of_not_le hd

theorem runEvents_step {s t : State} {a : Unit} (h : runEvents.run s = .ok a t) :
    StepRel s t ∧ LineRel s t ∧ NoDueEvent t :=
  processEvents_step h

theorem of_outcomeOf_next {r : EStateM.Result Stop State Unit} {t : State} (h : outcomeOf r = .next t) : r = .ok () t := by
  unfold outcomeOf at h
  split at h <;> cases h
  rfl

/-! ## Fetching -/

theorem fetchByte_op (s : State) : OpAt s fetchByte :=
  OpAt.getCpu_bind <| OpAt.bus_bind (read8_isBus _) fun _ _ _ =>
    OpAt.onCpu_bind (fun h => h.of_same rfl rfl rfl rfl rfl rfl) (OpAt.pure _)

theorem fetchN_op (s : State) (n : Nat) : OpAt s (fetchN n) := by
  induction n generalizing s with
  | zero => exact OpAt.pure _
  | succ n ih =>
    exact OpAt.bind (fetchByte_op s) fun _ t _ => OpAt.bind (ih t) fun _ _ _ => OpAt.pure _

/-- What fetching an instruction can do. -/
theorem fetchInstr_op {s t : State} {i : Instr} (h : fetchInstr.run s = .ok i t) : OpRel s t := by
  rw [fetchInstr, EStateM.run_bind, EStateM.run_get] at h
  dsimp only at h
  obtain ⟨op, u, h1, h2⟩ := ok_of_bind h
  split_ifs at h2
  · simp only [EStateM.run_bind, raise_run] at h2
    cases h2
  · obtain ⟨bs, v, h3, h4⟩ := ok_of_bind h2
    have hv := (fetchByte_op s op u h1).trans (fetchN_op u _ bs v h3)
    split at h4
    · cases h4
      exact hv
    · cases h4

/-! ## A step -/

/-- Time passing keeps everything but the clock and the pending cycles. -/
theorem convertCycles_step (s : State) : StepRel s (convertCycles s) :=
  ⟨rfl, rfl, rfl, Nat.le_add_right _ _, fun hi => ⟨hi.1.of_same rfl rfl rfl rfl rfl rfl, { hi.2 with }⟩⟩

theorem idleAdvance_step (s : State) : StepRel s (idleAdvance s) := by
  unfold idleAdvance
  split
  · exact StepRel.refl s
  · exact ⟨rfl, rfl, rfl, Nat.le_max_left _ _, fun hi => ⟨hi.1, { hi.2 with }⟩⟩

theorem idleAdvance_line (s : State) : LineRel s (idleAdvance s) := by
  unfold idleAdvance
  split
  · exact LineRel.refl s
  · exact .of_same rfl rfl rfl rfl

/-- What every completed step can do (R851): the parameters stay, the clock does not go back, the invariant is kept, the line
timeline goes on, and no event is left due. -/
theorem step_rel {s t : State} (h : step s = .next t) : StepRel s t ∧ LineRel s t ∧ NoDueEvent t := by
  unfold step at h
  split at h
  · cases h
  · split_ifs at h
    · obtain ⟨h1, h2, h3⟩ := runEvents_step (of_outcomeOf_next h)
      have hi := idleAdvance_line s
      exact ⟨(idleAdvance_step s).trans h1, hi.trans h2, h3⟩
    · split at h
      · cases h
      · cases h
      · rename_i i u hf
        cases he : exec i u with
        | fault f => rw [he] at h; cases h
        | refused r => rw [he] at h; cases h
        | next v =>
          rw [he] at h
          obtain ⟨h1, h2, h3⟩ := runEvents_step (of_outcomeOf_next h)
          have ho := (fetchInstr_op hf).trans (exec_op he)
          exact ⟨(ho.step.trans (convertCycles_step v)).trans h1,
            ((OpRel.lines ho).trans (.of_same rfl rfl rfl rfl)).trans h2, h3⟩

end Sys2Proof.Laws
end

