-- ==== Sys2Proof/Laws/Cost.lean ====
section
/-!
SUPPORT. The cost of what a step runs: the instruction fetched has the opcode fetched, its cost is charged, and time passes.
-/

namespace Sys2Proof.Laws

open Sys2Proof Sys2Proof.Machine

/-! ## The opcode of a decoded instruction -/

/-- Whatever its operand bytes, a shape gives an instruction of the main CPU with the opcode `op`. -/
def Yields (op : Byte) : Shape → Prop
  | .b0 i => i.isAudio = false ∧ i.opcode? = some op
  | .b1 k => ∀ a, (k a).isAudio = false ∧ (k a).opcode? = some op
  | .w2 k => ∀ a, (k a).isAudio = false ∧ (k a).opcode? = some op
  | .l3 k => ∀ a, (k a).isAudio = false ∧ (k a).opcode? = some op
  | .bb k => ∀ a b, (k a b).isAudio = false ∧ (k a b).opcode? = some op
  | .immM k => ∀ a, (k a).isAudio = false ∧ (k a).opcode? = some op
  | .immX k => ∀ a, (k a).isAudio = false ∧ (k a).opcode? = some op
  | .mb k => ∀ a b, (k a b).isAudio = false ∧ (k a b).opcode? = some op

/-- What a shape builds has the shape's opcode. -/
theorem Yields.build {op : Byte} {sh : Shape} (h : Yields op sh) {m x : Bool} {bs rest : List Byte} {i : Instr}
    (hb : sh.build m x bs = some (i, rest)) : i.isAudio = false ∧ i.opcode? = some op := by
  cases sh <;> rcases bs with _ | ⟨b1, _ | ⟨b2, _ | ⟨b3, bs⟩⟩⟩ <;> simp only [Shape.build] at hb <;>
    (try split_ifs at hb) <;> (try cases hb) <;>
    first
    | exact h
    | exact h _
    | exact h _ _

/-- A row of the map, from its opcode on. -/
def RowYields : Nat → List Shape → Prop
  | _, [] => True
  | n, sh :: t => Yields (BitVec.ofNat 8 n) sh ∧ RowYields (n + 1) t

theorem RowYields.get {n : Nat} {l : List Shape} (h : RowYields n l) {k : Nat} {sh : Shape} (hk : l[k]? = some sh) :
    Yields (BitVec.ofNat 8 (n + k)) sh := by
  induction l generalizing n k with
  | nil => cases hk
  | cons a t ih =>
    cases k with
    | zero =>
      cases hk
      exact h.1
    | succ k =>
      have := ih h.2 hk
      rwa [Nat.add_assoc, Nat.add_comm 1 k] at this

theorem mainRows_yield : ∀ k row, mainRows[k]? = some row → RowYields (16 * k) row := by
  intro k row h
  have hk : k < 16 := by
    by_contra hk
    rw [List.getElem?_eq_none (by simpa [mainRows] using hk)] at h
    cases h
  interval_cases k <;> simp only [mainRows, List.getElem?_cons_succ, List.getElem?_cons_zero, Option.some.injEq] at h <;>
    subst h <;>
    simp only [RowYields, Yields, main0, main1, main2, main3, main4, main5, main6, main7, main8, main9, mainA, mainB, mainC, mainD,
      mainE, mainF] <;>
    (repeat' first | exact trivial | exact ⟨rfl, rfl⟩ | exact fun _ => ⟨rfl, rfl⟩ | exact fun _ _ => ⟨rfl, rfl⟩ | refine And.intro ?_ ?_)

/-- The instruction decoded from an opcode byte has that opcode (R300, R305). -/
theorem decodeMain_opcode {m x : Bool} {op : Byte} {bs rest : List Byte} {i : Instr}
    (h : decodeMain m x (op :: bs) = some (i, rest)) : i.isAudio = false ∧ i.opcode? = some op := by
  simp only [decodeMain, mainShape, mapEntry, Option.bind_eq_some_iff] at h
  obtain ⟨sh, ⟨row, hrow, hsh⟩, hb⟩ := h
  have := (mainRows_yield _ _ hrow).get hsh
  rw [Nat.div_add_mod, BitVec.ofNat_toNat, BitVec.setWidth_eq] at this
  exact this.build hb

/-! ## Costs -/

theorem cycleRow_base (op : Byte) : 2 ≤ (cycleRow op).base := by
  revert op
  decide

theorem lookup_mem {α β : Type} [BEq α] [LawfulBEq α] {k : α} {v : β} {l : List (α × β)} (h : l.lookup k = some v) : (k, v) ∈ l := by
  induction l with
  | nil => cases h
  | cons p t ih =>
    obtain ⟨a, b⟩ := p
    rw [List.lookup_cons] at h
    split at h
    · rename_i he
      rw [eq_of_beq he]
      cases h
      exact List.mem_cons_self
    · exact List.mem_cons_of_mem _ (ih h)

/-- Where no listed cost is below `k`, and `k` is at most 2, no instruction costs less (R1070). -/
theorem cpuCost_ge {cfg : Config} {k : Nat} (hk : k ≤ 2) (h : ∀ e ∈ cfg.cpuCosts, k ≤ e.2) (op : Byte) (b : Cpu) (f : Facts) :
    k ≤ cpuCost cfg op b f := by
  unfold cpuCost
  cases hl : cfg.cpuCosts.lookup (cpuCostKey op b f) with
  | some v => exact h _ (lookup_mem hl)
  | none =>
    have := cycleRow_base op
    simp only [Option.getD_none, cpuCycles]
    omega

/-- A completed main-CPU instruction has charged its cost (R400). -/
theorem exec_charged {i : Instr} (hi : i.isAudio = false) {s u : State} (h : exec i s = .next u) :
    ∃ (f : Facts) (t : State), u = t.onCpu (Cpu.charge (instrCost s.cfg i s.cpu f)) := by
  have key : ∀ {body : M Facts}, runInstr i body s = .next u →
      ∃ (f : Facts) (t : State), u = t.onCpu (Cpu.charge (instrCost s.cfg i s.cpu f)) := fun hb => by
    obtain ⟨f, t, -, rfl⟩ := of_runInstr_next hb
    exact ⟨f, t, rfl⟩
  cases i <;> first
    | (simp only [exec, execLda, execLdx, execLdy, execSta, execStx, execSty, execStz, execTax, execTay, execTxa, execTya,
      execTxy, execTyx, execTsx, execTxs, execTcs, execTsc, execTcd, execTdc, execXba, execMvn, execMvp, execPha,
      execPhx, execPhy, execPhp, execPhb, execPhk, execPhd, execPla, execPlx, execPly, execPlp, execPlb, execPld,
      execPea, execPei, execPer, execAdc, execSbc, execCmp, execCpx, execCpy, execAnd, execOra, execEor, execBit,
      execTsb, execTrb, execInc, execDec, execInx, execIny, execDex, execDey, execAsl, execLsr, execRol, execRor,
      execBpl, execBmi, execBvc, execBvs, execBcc, execBcs, execBne, execBeq, execBra, execBrl, execJmp, execJmpInd,
      execJmpIndX, execJml, execJmlInd, execJsr, execJsrIndX, execJsl, execRts, execRtl, execRti, execBrk, execCop,
      execClc, execSec, execCli, execSei, execCld, execSed, execClv, execRep, execSep, execXce, execNop, execWdm,
      execWai, execStp, regInstr, arithInstr, logicInstr, branchInstr, branchTo] at h
       exact key h)
    | cases hi

end Sys2Proof.Laws
end

