-- ==== Sys2Proof/Laws/Frame.lean ====
section
/-!
SUPPORT. A frame ends: every step but the first moves the master clock, line 224 comes when the line timeline says, and the bound of
`runFrame` suffices (R858, R859).
-/

namespace Sys2Proof.Laws

open Sys2Proof Sys2Proof.Machine

/-! ## Time passes -/

/-- The instruction a fetch answers is the main CPU's and has an opcode. -/
theorem fetchInstr_opcode {s t : State} {i : Instr} (h : fetchInstr.run s = .ok i t) :
    i.isAudio = false ∧ ∃ op, i.opcode? = some op := by
  rw [fetchInstr, EStateM.run_bind, EStateM.run_get] at h
  dsimp only at h
  obtain ⟨op, u, -, h2⟩ := ok_of_bind h
  split_ifs at h2
  · simp only [EStateM.run_bind, onCpu_run, raise_run] at h2
    cases h2
  · obtain ⟨bs, v, -, h4⟩ := ok_of_bind h2
    split at h4
    · rename_i hd
      cases h4
      exact (decodeMain_opcode hd).imp_right fun ho => ⟨op, ho⟩
    · cases h4

/-- A step of a running CPU takes at least `k` cycles where no listed cost is below `k` (R855, R858). -/
theorem step_time {s t : State} {k : Nat} (hk : k ≤ 2) (hc : ∀ e ∈ s.cfg.cpuCosts, k ≤ e.2) (h : step s = .next t)
    (hr : s.cpu.stopped = false) (hw : s.cpu.waiting = false) :
    s.sched.master + k * s.cfg.masterPerCycle ≤ t.sched.master := by
  unfold step at h
  split at h
  · cases h
  · split_ifs at h with h1 h2
    · simp [hr, hw] at h2
    · split at h
      · cases h
      · cases h
      · rename_i i u hf
        cases he : exec i u with
        | fault f => rw [he] at h; cases h
        | refused r => rw [he] at h; cases h
        | next v =>
          rw [he] at h
          obtain ⟨hs, -, -⟩ := runEvents_step (of_outcomeOf_next h)
          obtain ⟨hi, op, ho⟩ := fetchInstr_opcode hf
          obtain ⟨f, w, rfl⟩ := exec_charged hi he
          have hfo := fetchInstr_op hf
          have heo := exec_op he
          have hcost : k ≤ instrCost u.cfg i u.cpu f := by
            rw [instrCost, ho]
            exact cpuCost_ge hk (hfo.cfg ▸ hc) op _ _
          have hm := hs.master
          have hcfg : w.cfg = s.cfg := heo.cfg.trans hfo.cfg
          have hmas : s.sched.master ≤ w.sched.master := Nat.le_trans hfo.master heo.master
          have : w.sched.master + (w.cpu.pending + instrCost u.cfg i u.cpu f) * w.cfg.masterPerCycle ≤ t.sched.master := hm
          rw [hcfg] at this
          have h3 : k * s.cfg.masterPerCycle ≤ (w.cpu.pending + instrCost u.cfg i u.cpu f) * s.cfg.masterPerCycle :=
            Nat.mul_le_mul_right _ (by omega)
          omega

/-- An idle step moves the clock to the next event at least (R851). -/
theorem step_idle_time {s t : State} (h : step s = .next t) (hi : s.cpu.stopped = true ∨ s.cpu.waiting = true) :
    ∀ e, s.sched.queue.head? = some e → e.ts ≤ t.sched.master := by
  intro e he
  unfold step at h
  split at h
  · cases h
  · split_ifs at h with h1 h2
    · obtain ⟨hs, -, -⟩ := runEvents_step (of_outcomeOf_next h)
      have : (idleAdvance s).sched.master ≤ t.sched.master := hs.master
      unfold idleAdvance at this
      split at this
      · rename_i hq
        rw [hq] at he
        cases he
      · rename_i e' rest hq
        rw [hq] at he
        cases he
        exact Nat.le_trans (Nat.le_max_right _ _) this
    · simp only [Bool.or_eq_true] at h2
      exact absurd hi h2

/-- In an ordered queue the first event is no later than any other. -/
theorem head_le {q : List Event} (hq : q.Pairwise fun a b => a.before b = true) {x : Event} (hx : x ∈ q) :
    ∃ e, q.head? = some e ∧ e.ts ≤ x.ts := by
  cases q with
  | nil => cases hx
  | cons a t =>
    refine ⟨a, rfl, ?_⟩
    rcases List.mem_cons.1 hx with rfl | hx
    · exact Nat.le_refl _
    · have := (List.pairwise_cons.1 hq).1 x hx
      simp only [Event.before, Bool.or_eq_true, decide_eq_true_eq, Bool.and_eq_true] at this
      omega

/-! ## A frame ends -/

/-- The line event is queued. -/
theorem lineState_mem {s : State} {e : Event} {b : Bool} (h : s.lineState = ([e], b)) : e ∈ s.sched.queue := by
  have : e ∈ s.sched.queue.filter fun y => y.kind.isLine := by
    rw [show s.sched.queue.filter (fun y => y.kind.isLine) = [e] from congrArg Prod.fst h]
    exact List.mem_singleton_self e
  exact (List.mem_filter.1 this).1

/-- From a state with no due event, the frame ends within the ticks that are left (R858). -/
theorem stepsToFrame_ends (n : Nat) : ∀ (s : State) (e : Event), s.Inv → NoDueEvent s → 1 ≤ s.cfg.masterPerCycle →
    (∀ c ∈ s.cfg.cpuCosts, 1 ≤ c.2) → s.lineState = ([e], decide (e.kind = .eol)) →
    deadline s.cfg s.sched.vline e - s.sched.master + 1 ≤ n → ∃ o, stepsToFrame n s = some o := by
  induction n with
  | zero => intro s e _ _ _ _ _ h; omega
  | succ n ih =>
    intro s e hi hd hm hc hl hn
    simp only [stepsToFrame]
    cases hs : step s with
    | fault f => exact ⟨_, rfl⟩
    | refused r => exact ⟨_, rfl⟩
    | next t =>
      dsimp only
      split_ifs with hf
      · exact ⟨_, rfl⟩
      · obtain ⟨h1, h2, h3⟩ := step_rel hs
        obtain ⟨e', hl', hv', hcfg, -, hdl⟩ := h2 e hl hi.dev.vline
        have hdl := hdl.resolve_left (by simpa using hf)
        obtain ⟨hci, hdi⟩ := h1.inv ⟨hi.cpu, hi.dev⟩
        obtain ⟨x, hx, hxe⟩ := head_le hi.dev.queue (lineState_mem hl)
        have hdue := hd x hx
        have hle : e.ts ≤ deadline s.cfg s.sched.vline e := by
          unfold deadline
          omega
        have htime : s.sched.master + 1 ≤ t.sched.master := by
          by_cases hidle : s.cpu.stopped = true ∨ s.cpu.waiting = true
          · have := step_idle_time hs hidle x hx
            omega
          · simp only [not_or, Bool.not_eq_true] at hidle
            have := step_time (k := 1) (by omega) hc hs hidle.1 hidle.2
            omega
        refine ih t e' ⟨hci, hdi, e', hl'⟩ h3 (hcfg ▸ hm) (hcfg ▸ hc) hl' ?_
        omega

/-- The frame is complete at most 262 lines after the line event that is queued. -/
theorem deadline_le (cfg : Config) {v : Nat} (hv : v < 262) (e : Event) : deadline cfg v e ≤ e.ts + 262 * linePeriod cfg := by
  have h1 := linesLeft_pos hv
  have h2 : linesLeft v ≤ 262 := by
    unfold linesLeft
    split_ifs <;> omega
  have h3 : (linesLeft v - 1) * linePeriod cfg ≤ 261 * linePeriod cfg := Nat.mul_le_mul_right _ (by omega)
  have h4 : (if e.kind = .eol then 0 else cfg.lineMaster - cfg.hblankMaster) ≤ linePeriod cfg := by
    unfold linePeriod
    split_ifs <;> omega
  unfold deadline
  omega

/-- The bound of `runFrame` suffices (R858). -/
theorem stepsToFrame_bound {s : State} (hi : s.Inv) (hm : 1 ≤ s.cfg.masterPerCycle) (hc : ∀ c ∈ s.cfg.cpuCosts, 1 ≤ c.2) :
    ∃ o, stepsToFrame (frameBound s) (frameStart s) = some o := by
  obtain ⟨e, hl⟩ := hi.line
  have hts : lineEventTs s.sched.queue = e.ts := by
    have hq : s.sched.queue.filter (fun y => y.kind.isLine) = [e] := congrArg Prod.fst hl
    have : s.sched.queue.find? (fun y => y.kind.isLine) = some e := by rw [← List.head?_filter, hq]; rfl
    rw [lineEventTs, this]
    rfl
  have hb := deadline_le s.cfg hi.dev.vline e
  obtain ⟨k, hk⟩ : ∃ k, frameBound s = k + 1 := ⟨_, rfl⟩
  have hk' := hk
  rw [frameBound, hts] at hk'
  rw [hk, stepsToFrame]
  cases hs : step (frameStart s) with
  | fault f => exact ⟨_, rfl⟩
  | refused r => exact ⟨_, rfl⟩
  | next t =>
    dsimp only
    split_ifs with hf
    · exact ⟨_, rfl⟩
    · obtain ⟨h1, h2, h3⟩ := step_rel hs
      have hdev : (frameStart s).DevInv := { hi.dev with }
      obtain ⟨e', hl', hv', hcfg, -, hdl⟩ := h2 e hl hi.dev.vline
      have hdl : deadline t.cfg t.sched.vline e' = deadline s.cfg s.sched.vline e := hdl.resolve_left (by simpa using hf)
      obtain ⟨hci, hdi⟩ := h1.inv ⟨hi.cpu, hdev⟩
      have hmas : s.sched.master ≤ t.sched.master := h1.master
      have hcfg : t.cfg = s.cfg := hcfg
      refine stepsToFrame_ends _ t e' ⟨hci, hdi, e', hl'⟩ h3 (hcfg ▸ hm) (hcfg ▸ hc) hl' ?_
      omega

end Sys2Proof.Laws
end

