-- ==== Sys2Proof/Laws/PerInstr.lean ====
section
/-!
SUPPORT. Statements made of every instruction as syntax, one lemma per constructor: decoding reads back what encoding wrote.
-/

namespace Sys2Proof.Laws

open Sys2Proof

/-! ## Fields of several bytes -/

theorem word16_bytes (w : Word) : word16 (w.extractLsb' 0 8) (w.extractLsb' 8 8) = w := by
  apply BitVec.eq_of_toNat_eq
  simp only [word16, BitVec.toNat_append, BitVec.extractLsb'_toNat, Nat.shiftRight_zero]
  rw [← Nat.shiftLeft_add_eq_or_of_lt (Nat.mod_lt _ (by decide)), Nat.shiftLeft_eq, Nat.shiftRight_eq_div_pow]
  have := w.isLt
  omega

theorem long24_bytes (a : Addr) : long24 (a.extractLsb' 0 8) (a.extractLsb' 8 8) (a.extractLsb' 16 8) = a := by
  apply BitVec.eq_of_toNat_eq
  simp only [long24, BitVec.toNat_append, BitVec.extractLsb'_toNat, Nat.shiftRight_zero]
  rw [← Nat.shiftLeft_add_eq_or_of_lt (Nat.mod_lt _ (by decide)), ← Nat.shiftLeft_add_eq_or_of_lt (Nat.mod_lt _ (by decide)),
    Nat.shiftLeft_eq, Nat.shiftLeft_eq, Nat.shiftRight_eq_div_pow, Nat.shiftRight_eq_div_pow]
  have := a.isLt
  omega

/-- The address of an `m.b` word. -/
theorem mb_address (m : BitVec 13) (b : BitVec 3) : ((b ++ m : Word)).extractLsb' 0 13 = m := by
  apply BitVec.eq_of_toNat_eq
  have := m.isLt
  simp only [BitVec.toNat_append, BitVec.extractLsb'_toNat, Nat.shiftRight_zero]
  rw [← Nat.shiftLeft_add_eq_or_of_lt m.isLt, Nat.shiftLeft_eq]
  omega

/-- The bit number of an `m.b` word. -/
theorem mb_bit (m : BitVec 13) (b : BitVec 3) : ((b ++ m : Word)).extractLsb' 13 3 = b := by
  apply BitVec.eq_of_toNat_eq
  have := m.isLt
  have := b.isLt
  simp only [BitVec.toNat_append, BitVec.extractLsb'_toNat]
  rw [← Nat.shiftLeft_add_eq_or_of_lt m.isLt, Nat.shiftLeft_eq, Nat.shiftRight_eq_div_pow]
  omega

/-! ## Round trip -/

/-- Decoding an encoded instruction followed by any bytes gives the instruction back and leaves those bytes: for the main CPU's
instructions with every M and X its immediate fits, for the audio CPU's always. -/
def RoundTrip.Statement (i : Instr) : Prop :=
  i.wf = true → ∀ (m x : Bool) (rest : List Byte),
    (i.isAudio = false → i.fits m x = true → decodeMain m x (encode i ++ rest) = some (i, rest)) ∧
      (i.isAudio = true → decodeAudio (encode i ++ rest) = some (i, rest))

/-- The one proof all of a constructor's forms share, for an operand of one byte or none. -/
theorem RoundTrip.of_main {i : Instr} (ha : i.isAudio = false)
    (h : i.wf = true → ∀ (m x : Bool) (rest : List Byte), i.fits m x = true →
      decodeMain m x (encode i ++ rest) = some (i, rest)) : RoundTrip.Statement i :=
  fun hw m x rest => ⟨fun _ hf => h hw m x rest hf, fun h' => (by rw [ha] at h'; cases h')⟩

theorem RoundTrip.of_audio {i : Instr} (ha : i.isAudio = true)
    (h : i.wf = true → ∀ rest : List Byte, decodeAudio (encode i ++ rest) = some (i, rest)) : RoundTrip.Statement i :=
  fun hw _ _ rest => ⟨fun h' => (by rw [ha] at h'; cases h'), fun _ => h hw rest⟩

theorem RoundTrip.bit_cases :
    ∀ b : BitVec 3, b = 0 ∨ b = 1 ∨ b = 2 ∨ b = 3 ∨ b = 4 ∨ b = 5 ∨ b = 6 ∨ b = 7 := by decide

theorem RoundTrip.vector_cases : ∀ n : BitVec 4, n = 0 ∨ n = 1 ∨ n = 2 ∨ n = 3 ∨ n = 4 ∨ n = 5 ∨ n = 6 ∨ n = 7 ∨
    n = 8 ∨ n = 9 ∨ n = 10 ∨ n = 11 ∨ n = 12 ∨ n = 13 ∨ n = 14 ∨ n = 15 := by decide

/-- An encoded main-CPU instruction whose opcode's entry has a 16-bit field. -/
theorem RoundTrip.main_w2 {i : Instr} {op : Byte} {k : Word → Instr} {w : Word} (he : encode i = op :: word16Bytes w)
    (h : mainShape op = some (.w2 k)) (hk : k w = i) {m x : Bool} {rest : List Byte} :
    decodeMain m x (encode i ++ rest) = some (i, rest) := by
  rw [he]
  simp [decodeMain, h, word16Bytes, Shape.build, word16_bytes, hk]

theorem RoundTrip.main_l3 {i : Instr} {op : Byte} {k : Addr → Instr} {a : Addr} (he : encode i = op :: long24Bytes a)
    (h : mainShape op = some (.l3 k)) (hk : k a = i) {m x : Bool} {rest : List Byte} :
    decodeMain m x (encode i ++ rest) = some (i, rest) := by
  rw [he]
  simp [decodeMain, h, long24Bytes, Shape.build, long24_bytes, hk]

theorem RoundTrip.main_immM {i : Instr} {op : Byte} {k : Imm → Instr} {v : Imm} (he : encode i = op :: v.bytes)
    (h : mainShape op = some (.immM k)) (hk : k v = i) {m : Bool} (hf : v.fits m = true) {x : Bool} {rest : List Byte} :
    decodeMain m x (encode i ++ rest) = some (i, rest) := by
  rw [he]
  cases v <;> cases m <;> simp_all [decodeMain, Imm.fits, Imm.bytes, word16Bytes, Shape.build, word16_bytes]

theorem RoundTrip.main_immX {i : Instr} {op : Byte} {k : Imm → Instr} {v : Imm} (he : encode i = op :: v.bytes)
    (h : mainShape op = some (.immX k)) (hk : k v = i) {x : Bool} (hf : v.fits x = true) {m : Bool} {rest : List Byte} :
    decodeMain m x (encode i ++ rest) = some (i, rest) := by
  rw [he]
  cases v <;> cases x <;> simp_all [decodeMain, Imm.fits, Imm.bytes, word16Bytes, Shape.build, word16_bytes]

theorem RoundTrip.audio_w2 {i : Instr} {op : Byte} {k : Word → Instr} {w : Word} (he : encode i = op :: word16Bytes w)
    (h : audioShape op = some (.w2 k)) (hk : k w = i) {rest : List Byte} :
    decodeAudio (encode i ++ rest) = some (i, rest) := by
  rw [he]
  simp [decodeAudio, h, word16Bytes, Shape.build, word16_bytes, hk]

theorem RoundTrip.audio_mb {i : Instr} {op : Byte} {k : BitVec 13 → BitVec 3 → Instr} {a : BitVec 13} {b : BitVec 3}
    (he : encode i = op :: mbBytes a b) (h : audioShape op = some (.mb k)) (hk : k a b = i) {rest : List Byte} :
    decodeAudio (encode i ++ rest) = some (i, rest) := by
  rw [he]
  simp only [decodeAudio, h, mbBytes, word16Bytes, Option.bind_some, Shape.build, List.cons_append, List.nil_append,
    word16_bytes, mb_address, mb_bit, hk]


theorem RoundTrip.lda (src : Src) : RoundTrip.Statement (.lda src) := by
  refine RoundTrip.of_main rfl fun hw m x rest hf => ?_
  cases src with
  | imm v => apply RoundTrip.main_immM (hf := hf) <;> rfl
  | mem md => cases md <;> first | rfl | (apply RoundTrip.main_w2 <;> rfl) | (apply RoundTrip.main_l3 <;> rfl) | exact absurd hw Bool.false_ne_true

theorem RoundTrip.ldx (src : Src) : RoundTrip.Statement (.ldx src) := by
  refine RoundTrip.of_main rfl fun hw m x rest hf => ?_
  cases src with
  | imm v => apply RoundTrip.main_immX (hf := hf) <;> rfl
  | mem md => cases md <;> first | rfl | (apply RoundTrip.main_w2 <;> rfl) | (apply RoundTrip.main_l3 <;> rfl) | exact absurd hw Bool.false_ne_true

theorem RoundTrip.ldy (src : Src) : RoundTrip.Statement (.ldy src) := by
  refine RoundTrip.of_main rfl fun hw m x rest hf => ?_
  cases src with
  | imm v => apply RoundTrip.main_immX (hf := hf) <;> rfl
  | mem md => cases md <;> first | rfl | (apply RoundTrip.main_w2 <;> rfl) | (apply RoundTrip.main_l3 <;> rfl) | exact absurd hw Bool.false_ne_true

theorem RoundTrip.sta (m : AddrMode) : RoundTrip.Statement (.sta m) := by
  refine RoundTrip.of_main rfl fun hw mf x rest _ => ?_
  cases m <;> first | rfl | (apply RoundTrip.main_w2 <;> rfl) | (apply RoundTrip.main_l3 <;> rfl) | exact absurd hw Bool.false_ne_true

theorem RoundTrip.stx (m : AddrMode) : RoundTrip.Statement (.stx m) := by
  refine RoundTrip.of_main rfl fun hw mf x rest _ => ?_
  cases m <;> first | rfl | (apply RoundTrip.main_w2 <;> rfl) | (apply RoundTrip.main_l3 <;> rfl) | exact absurd hw Bool.false_ne_true

theorem RoundTrip.sty (m : AddrMode) : RoundTrip.Statement (.sty m) := by
  refine RoundTrip.of_main rfl fun hw mf x rest _ => ?_
  cases m <;> first | rfl | (apply RoundTrip.main_w2 <;> rfl) | (apply RoundTrip.main_l3 <;> rfl) | exact absurd hw Bool.false_ne_true

theorem RoundTrip.stz (m : AddrMode) : RoundTrip.Statement (.stz m) := by
  refine RoundTrip.of_main rfl fun hw mf x rest _ => ?_
  cases m <;> first | rfl | (apply RoundTrip.main_w2 <;> rfl) | (apply RoundTrip.main_l3 <;> rfl) | exact absurd hw Bool.false_ne_true

theorem RoundTrip.tax : RoundTrip.Statement .tax := RoundTrip.of_main rfl fun _ _ _ _ _ => rfl

theorem RoundTrip.tay : RoundTrip.Statement .tay := RoundTrip.of_main rfl fun _ _ _ _ _ => rfl

theorem RoundTrip.txa : RoundTrip.Statement .txa := RoundTrip.of_main rfl fun _ _ _ _ _ => rfl

theorem RoundTrip.tya : RoundTrip.Statement .tya := RoundTrip.of_main rfl fun _ _ _ _ _ => rfl

theorem RoundTrip.txy : RoundTrip.Statement .txy := RoundTrip.of_main rfl fun _ _ _ _ _ => rfl

theorem RoundTrip.tyx : RoundTrip.Statement .tyx := RoundTrip.of_main rfl fun _ _ _ _ _ => rfl

theorem RoundTrip.tsx : RoundTrip.Statement .tsx := RoundTrip.of_main rfl fun _ _ _ _ _ => rfl

theorem RoundTrip.txs : RoundTrip.Statement .txs := RoundTrip.of_main rfl fun _ _ _ _ _ => rfl

theorem RoundTrip.tcs : RoundTrip.Statement .tcs := RoundTrip.of_main rfl fun _ _ _ _ _ => rfl

theorem RoundTrip.tsc : RoundTrip.Statement .tsc := RoundTrip.of_main rfl fun _ _ _ _ _ => rfl

theorem RoundTrip.tcd : RoundTrip.Statement .tcd := RoundTrip.of_main rfl fun _ _ _ _ _ => rfl

theorem RoundTrip.tdc : RoundTrip.Statement .tdc := RoundTrip.of_main rfl fun _ _ _ _ _ => rfl

theorem RoundTrip.xba : RoundTrip.Statement .xba := RoundTrip.of_main rfl fun _ _ _ _ _ => rfl

theorem RoundTrip.mvn (dst : Byte) (src : Byte) : RoundTrip.Statement (.mvn dst src) :=
  RoundTrip.of_main rfl fun _ _ _ _ _ => rfl

theorem RoundTrip.mvp (dst : Byte) (src : Byte) : RoundTrip.Statement (.mvp dst src) :=
  RoundTrip.of_main rfl fun _ _ _ _ _ => rfl

theorem RoundTrip.pha : RoundTrip.Statement .pha := RoundTrip.of_main rfl fun _ _ _ _ _ => rfl

theorem RoundTrip.phx : RoundTrip.Statement .phx := RoundTrip.of_main rfl fun _ _ _ _ _ => rfl

theorem RoundTrip.phy : RoundTrip.Statement .phy := RoundTrip.of_main rfl fun _ _ _ _ _ => rfl

theorem RoundTrip.php : RoundTrip.Statement .php := RoundTrip.of_main rfl fun _ _ _ _ _ => rfl

theorem RoundTrip.phb : RoundTrip.Statement .phb := RoundTrip.of_main rfl fun _ _ _ _ _ => rfl

theorem RoundTrip.phk : RoundTrip.Statement .phk := RoundTrip.of_main rfl fun _ _ _ _ _ => rfl

theorem RoundTrip.phd : RoundTrip.Statement .phd := RoundTrip.of_main rfl fun _ _ _ _ _ => rfl

theorem RoundTrip.pla : RoundTrip.Statement .pla := RoundTrip.of_main rfl fun _ _ _ _ _ => rfl

theorem RoundTrip.plx : RoundTrip.Statement .plx := RoundTrip.of_main rfl fun _ _ _ _ _ => rfl

theorem RoundTrip.ply : RoundTrip.Statement .ply := RoundTrip.of_main rfl fun _ _ _ _ _ => rfl

theorem RoundTrip.plp : RoundTrip.Statement .plp := RoundTrip.of_main rfl fun _ _ _ _ _ => rfl

theorem RoundTrip.plb : RoundTrip.Statement .plb := RoundTrip.of_main rfl fun _ _ _ _ _ => rfl

theorem RoundTrip.pld : RoundTrip.Statement .pld := RoundTrip.of_main rfl fun _ _ _ _ _ => rfl

theorem RoundTrip.pea (v : Word) : RoundTrip.Statement (.pea v) :=
  RoundTrip.of_main rfl fun _ m x rest _ => by apply RoundTrip.main_w2 <;> rfl

theorem RoundTrip.pei (o : Byte) : RoundTrip.Statement (.pei o) := RoundTrip.of_main rfl fun _ _ _ _ _ => rfl

theorem RoundTrip.per (rel : Word) : RoundTrip.Statement (.per rel) :=
  RoundTrip.of_main rfl fun _ m x rest _ => by apply RoundTrip.main_w2 <;> rfl

theorem RoundTrip.adc (src : Src) : RoundTrip.Statement (.adc src) := by
  refine RoundTrip.of_main rfl fun hw m x rest hf => ?_
  cases src with
  | imm v => apply RoundTrip.main_immM (hf := hf) <;> rfl
  | mem md => cases md <;> first | rfl | (apply RoundTrip.main_w2 <;> rfl) | (apply RoundTrip.main_l3 <;> rfl) | exact absurd hw Bool.false_ne_true

theorem RoundTrip.sbc (src : Src) : RoundTrip.Statement (.sbc src) := by
  refine RoundTrip.of_main rfl fun hw m x rest hf => ?_
  cases src with
  | imm v => apply RoundTrip.main_immM (hf := hf) <;> rfl
  | mem md => cases md <;> first | rfl | (apply RoundTrip.main_w2 <;> rfl) | (apply RoundTrip.main_l3 <;> rfl) | exact absurd hw Bool.false_ne_true

theorem RoundTrip.cmp (src : Src) : RoundTrip.Statement (.cmp src) := by
  refine RoundTrip.of_main rfl fun hw m x rest hf => ?_
  cases src with
  | imm v => apply RoundTrip.main_immM (hf := hf) <;> rfl
  | mem md => cases md <;> first | rfl | (apply RoundTrip.main_w2 <;> rfl) | (apply RoundTrip.main_l3 <;> rfl) | exact absurd hw Bool.false_ne_true

theorem RoundTrip.cpx (src : Src) : RoundTrip.Statement (.cpx src) := by
  refine RoundTrip.of_main rfl fun hw m x rest hf => ?_
  cases src with
  | imm v => apply RoundTrip.main_immX (hf := hf) <;> rfl
  | mem md => cases md <;> first | rfl | (apply RoundTrip.main_w2 <;> rfl) | (apply RoundTrip.main_l3 <;> rfl) | exact absurd hw Bool.false_ne_true

theorem RoundTrip.cpy (src : Src) : RoundTrip.Statement (.cpy src) := by
  refine RoundTrip.of_main rfl fun hw m x rest hf => ?_
  cases src with
  | imm v => apply RoundTrip.main_immX (hf := hf) <;> rfl
  | mem md => cases md <;> first | rfl | (apply RoundTrip.main_w2 <;> rfl) | (apply RoundTrip.main_l3 <;> rfl) | exact absurd hw Bool.false_ne_true

theorem RoundTrip.and (src : Src) : RoundTrip.Statement (.and src) := by
  refine RoundTrip.of_main rfl fun hw m x rest hf => ?_
  cases src with
  | imm v => apply RoundTrip.main_immM (hf := hf) <;> rfl
  | mem md => cases md <;> first | rfl | (apply RoundTrip.main_w2 <;> rfl) | (apply RoundTrip.main_l3 <;> rfl) | exact absurd hw Bool.false_ne_true

theorem RoundTrip.ora (src : Src) : RoundTrip.Statement (.ora src) := by
  refine RoundTrip.of_main rfl fun hw m x rest hf => ?_
  cases src with
  | imm v => apply RoundTrip.main_immM (hf := hf) <;> rfl
  | mem md => cases md <;> first | rfl | (apply RoundTrip.main_w2 <;> rfl) | (apply RoundTrip.main_l3 <;> rfl) | exact absurd hw Bool.false_ne_true

theorem RoundTrip.eor (src : Src) : RoundTrip.Statement (.eor src) := by
  refine RoundTrip.of_main rfl fun hw m x rest hf => ?_
  cases src with
  | imm v => apply RoundTrip.main_immM (hf := hf) <;> rfl
  | mem md => cases md <;> first | rfl | (apply RoundTrip.main_w2 <;> rfl) | (apply RoundTrip.main_l3 <;> rfl) | exact absurd hw Bool.false_ne_true

theorem RoundTrip.bit (src : Src) : RoundTrip.Statement (.bit src) := by
  refine RoundTrip.of_main rfl fun hw m x rest hf => ?_
  cases src with
  | imm v => apply RoundTrip.main_immM (hf := hf) <;> rfl
  | mem md => cases md <;> first | rfl | (apply RoundTrip.main_w2 <;> rfl) | (apply RoundTrip.main_l3 <;> rfl) | exact absurd hw Bool.false_ne_true

theorem RoundTrip.tsb (m : AddrMode) : RoundTrip.Statement (.tsb m) := by
  refine RoundTrip.of_main rfl fun hw mf x rest _ => ?_
  cases m <;> first | rfl | (apply RoundTrip.main_w2 <;> rfl) | (apply RoundTrip.main_l3 <;> rfl) | exact absurd hw Bool.false_ne_true

theorem RoundTrip.trb (m : AddrMode) : RoundTrip.Statement (.trb m) := by
  refine RoundTrip.of_main rfl fun hw mf x rest _ => ?_
  cases m <;> first | rfl | (apply RoundTrip.main_w2 <;> rfl) | (apply RoundTrip.main_l3 <;> rfl) | exact absurd hw Bool.false_ne_true

theorem RoundTrip.inc (op : Rmw) : RoundTrip.Statement (.inc op) := by
  refine RoundTrip.of_main rfl fun hw m x rest _ => ?_
  cases op with
  | acc => rfl
  | mem md => cases md <;> first | rfl | (apply RoundTrip.main_w2 <;> rfl) | exact absurd hw Bool.false_ne_true

theorem RoundTrip.dec (op : Rmw) : RoundTrip.Statement (.dec op) := by
  refine RoundTrip.of_main rfl fun hw m x rest _ => ?_
  cases op with
  | acc => rfl
  | mem md => cases md <;> first | rfl | (apply RoundTrip.main_w2 <;> rfl) | exact absurd hw Bool.false_ne_true

theorem RoundTrip.inx : RoundTrip.Statement .inx := RoundTrip.of_main rfl fun _ _ _ _ _ => rfl

theorem RoundTrip.iny : RoundTrip.Statement .iny := RoundTrip.of_main rfl fun _ _ _ _ _ => rfl

theorem RoundTrip.dex : RoundTrip.Statement .dex := RoundTrip.of_main rfl fun _ _ _ _ _ => rfl

theorem RoundTrip.dey : RoundTrip.Statement .dey := RoundTrip.of_main rfl fun _ _ _ _ _ => rfl

theorem RoundTrip.asl (op : Rmw) : RoundTrip.Statement (.asl op) := by
  refine RoundTrip.of_main rfl fun hw m x rest _ => ?_
  cases op with
  | acc => rfl
  | mem md => cases md <;> first | rfl | (apply RoundTrip.main_w2 <;> rfl) | exact absurd hw Bool.false_ne_true

theorem RoundTrip.lsr (op : Rmw) : RoundTrip.Statement (.lsr op) := by
  refine RoundTrip.of_main rfl fun hw m x rest _ => ?_
  cases op with
  | acc => rfl
  | mem md => cases md <;> first | rfl | (apply RoundTrip.main_w2 <;> rfl) | exact absurd hw Bool.false_ne_true

theorem RoundTrip.rol (op : Rmw) : RoundTrip.Statement (.rol op) := by
  refine RoundTrip.of_main rfl fun hw m x rest _ => ?_
  cases op with
  | acc => rfl
  | mem md => cases md <;> first | rfl | (apply RoundTrip.main_w2 <;> rfl) | exact absurd hw Bool.false_ne_true

theorem RoundTrip.ror (op : Rmw) : RoundTrip.Statement (.ror op) := by
  refine RoundTrip.of_main rfl fun hw m x rest _ => ?_
  cases op with
  | acc => rfl
  | mem md => cases md <;> first | rfl | (apply RoundTrip.main_w2 <;> rfl) | exact absurd hw Bool.false_ne_true

theorem RoundTrip.bpl (rel : Byte) : RoundTrip.Statement (.bpl rel) := RoundTrip.of_main rfl fun _ _ _ _ _ => rfl

theorem RoundTrip.bmi (rel : Byte) : RoundTrip.Statement (.bmi rel) := RoundTrip.of_main rfl fun _ _ _ _ _ => rfl

theorem RoundTrip.bvc (rel : Byte) : RoundTrip.Statement (.bvc rel) := RoundTrip.of_main rfl fun _ _ _ _ _ => rfl

theorem RoundTrip.bvs (rel : Byte) : RoundTrip.Statement (.bvs rel) := RoundTrip.of_main rfl fun _ _ _ _ _ => rfl

theorem RoundTrip.bcc (rel : Byte) : RoundTrip.Statement (.bcc rel) := RoundTrip.of_main rfl fun _ _ _ _ _ => rfl

theorem RoundTrip.bcs (rel : Byte) : RoundTrip.Statement (.bcs rel) := RoundTrip.of_main rfl fun _ _ _ _ _ => rfl

theorem RoundTrip.bne (rel : Byte) : RoundTrip.Statement (.bne rel) := RoundTrip.of_main rfl fun _ _ _ _ _ => rfl

theorem RoundTrip.beq (rel : Byte) : RoundTrip.Statement (.beq rel) := RoundTrip.of_main rfl fun _ _ _ _ _ => rfl

theorem RoundTrip.bra (rel : Byte) : RoundTrip.Statement (.bra rel) := RoundTrip.of_main rfl fun _ _ _ _ _ => rfl

theorem RoundTrip.brl (rel : Word) : RoundTrip.Statement (.brl rel) :=
  RoundTrip.of_main rfl fun _ m x rest _ => by apply RoundTrip.main_w2 <;> rfl

theorem RoundTrip.jmp (a : Word) : RoundTrip.Statement (.jmp a) :=
  RoundTrip.of_main rfl fun _ m x rest _ => by apply RoundTrip.main_w2 <;> rfl

theorem RoundTrip.jmpInd (a : Word) : RoundTrip.Statement (.jmpInd a) :=
  RoundTrip.of_main rfl fun _ m x rest _ => by apply RoundTrip.main_w2 <;> rfl

theorem RoundTrip.jmpIndX (a : Word) : RoundTrip.Statement (.jmpIndX a) :=
  RoundTrip.of_main rfl fun _ m x rest _ => by apply RoundTrip.main_w2 <;> rfl

theorem RoundTrip.jml (a : Addr) : RoundTrip.Statement (.jml a) :=
  RoundTrip.of_main rfl fun _ m x rest _ => by apply RoundTrip.main_l3 <;> rfl

theorem RoundTrip.jmlInd (a : Word) : RoundTrip.Statement (.jmlInd a) :=
  RoundTrip.of_main rfl fun _ m x rest _ => by apply RoundTrip.main_w2 <;> rfl

theorem RoundTrip.jsr (a : Word) : RoundTrip.Statement (.jsr a) :=
  RoundTrip.of_main rfl fun _ m x rest _ => by apply RoundTrip.main_w2 <;> rfl

theorem RoundTrip.jsrIndX (a : Word) : RoundTrip.Statement (.jsrIndX a) :=
  RoundTrip.of_main rfl fun _ m x rest _ => by apply RoundTrip.main_w2 <;> rfl

theorem RoundTrip.jsl (a : Addr) : RoundTrip.Statement (.jsl a) :=
  RoundTrip.of_main rfl fun _ m x rest _ => by apply RoundTrip.main_l3 <;> rfl

theorem RoundTrip.rts : RoundTrip.Statement .rts := RoundTrip.of_main rfl fun _ _ _ _ _ => rfl

theorem RoundTrip.rtl : RoundTrip.Statement .rtl := RoundTrip.of_main rfl fun _ _ _ _ _ => rfl

theorem RoundTrip.rti : RoundTrip.Statement .rti := RoundTrip.of_main rfl fun _ _ _ _ _ => rfl

theorem RoundTrip.brk (sig : Byte) : RoundTrip.Statement (.brk sig) := RoundTrip.of_main rfl fun _ _ _ _ _ => rfl

theorem RoundTrip.cop (sig : Byte) : RoundTrip.Statement (.cop sig) := RoundTrip.of_main rfl fun _ _ _ _ _ => rfl

theorem RoundTrip.clc : RoundTrip.Statement .clc := RoundTrip.of_main rfl fun _ _ _ _ _ => rfl

theorem RoundTrip.sec : RoundTrip.Statement .sec := RoundTrip.of_main rfl fun _ _ _ _ _ => rfl

theorem RoundTrip.cli : RoundTrip.Statement .cli := RoundTrip.of_main rfl fun _ _ _ _ _ => rfl

theorem RoundTrip.sei : RoundTrip.Statement .sei := RoundTrip.of_main rfl fun _ _ _ _ _ => rfl

theorem RoundTrip.cld : RoundTrip.Statement .cld := RoundTrip.of_main rfl fun _ _ _ _ _ => rfl

theorem RoundTrip.sed : RoundTrip.Statement .sed := RoundTrip.of_main rfl fun _ _ _ _ _ => rfl

theorem RoundTrip.clv : RoundTrip.Statement .clv := RoundTrip.of_main rfl fun _ _ _ _ _ => rfl

theorem RoundTrip.rep (v : Byte) : RoundTrip.Statement (.rep v) := RoundTrip.of_main rfl fun _ _ _ _ _ => rfl

theorem RoundTrip.sep (v : Byte) : RoundTrip.Statement (.sep v) := RoundTrip.of_main rfl fun _ _ _ _ _ => rfl

theorem RoundTrip.xce : RoundTrip.Statement .xce := RoundTrip.of_main rfl fun _ _ _ _ _ => rfl

theorem RoundTrip.nop : RoundTrip.Statement .nop := RoundTrip.of_main rfl fun _ _ _ _ _ => rfl

theorem RoundTrip.wdm (v : Byte) : RoundTrip.Statement (.wdm v) := RoundTrip.of_main rfl fun _ _ _ _ _ => rfl

theorem RoundTrip.wai : RoundTrip.Statement .wai := RoundTrip.of_main rfl fun _ _ _ _ _ => rfl

theorem RoundTrip.stp : RoundTrip.Statement .stp := RoundTrip.of_main rfl fun _ _ _ _ _ => rfl

theorem RoundTrip.aMovA (src : ASrc) : RoundTrip.Statement (.aMovA src) := by
  refine RoundTrip.of_audio rfl fun hw rest => ?_
  cases src with
  | imm v => first | rfl | exact absurd hw Bool.false_ne_true
  | mem md => cases md <;> first | rfl | (apply RoundTrip.audio_w2 <;> rfl) | exact absurd hw Bool.false_ne_true

theorem RoundTrip.aMovX (src : ASrc) : RoundTrip.Statement (.aMovX src) := by
  refine RoundTrip.of_audio rfl fun hw rest => ?_
  cases src with
  | imm v => first | rfl | exact absurd hw Bool.false_ne_true
  | mem md => cases md <;> first | rfl | (apply RoundTrip.audio_w2 <;> rfl) | exact absurd hw Bool.false_ne_true

theorem RoundTrip.aMovY (src : ASrc) : RoundTrip.Statement (.aMovY src) := by
  refine RoundTrip.of_audio rfl fun hw rest => ?_
  cases src with
  | imm v => first | rfl | exact absurd hw Bool.false_ne_true
  | mem md => cases md <;> first | rfl | (apply RoundTrip.audio_w2 <;> rfl) | exact absurd hw Bool.false_ne_true

theorem RoundTrip.aMovStA (m : AMode) : RoundTrip.Statement (.aMovStA m) := by
  refine RoundTrip.of_audio rfl fun hw rest => ?_
  cases m <;> first | rfl | (apply RoundTrip.audio_w2 <;> rfl) | exact absurd hw Bool.false_ne_true

theorem RoundTrip.aMovStX (m : AMode) : RoundTrip.Statement (.aMovStX m) := by
  refine RoundTrip.of_audio rfl fun hw rest => ?_
  cases m <;> first | rfl | (apply RoundTrip.audio_w2 <;> rfl) | exact absurd hw Bool.false_ne_true

theorem RoundTrip.aMovStY (m : AMode) : RoundTrip.Statement (.aMovStY m) := by
  refine RoundTrip.of_audio rfl fun hw rest => ?_
  cases m <;> first | rfl | (apply RoundTrip.audio_w2 <;> rfl) | exact absurd hw Bool.false_ne_true

theorem RoundTrip.aMovXA : RoundTrip.Statement .aMovXA := RoundTrip.of_audio rfl fun _ _ => rfl

theorem RoundTrip.aMovAX : RoundTrip.Statement .aMovAX := RoundTrip.of_audio rfl fun _ _ => rfl

theorem RoundTrip.aMovYA : RoundTrip.Statement .aMovYA := RoundTrip.of_audio rfl fun _ _ => rfl

theorem RoundTrip.aMovAY : RoundTrip.Statement .aMovAY := RoundTrip.of_audio rfl fun _ _ => rfl

theorem RoundTrip.aMovXSp : RoundTrip.Statement .aMovXSp := RoundTrip.of_audio rfl fun _ _ => rfl

theorem RoundTrip.aMovSpX : RoundTrip.Statement .aMovSpX := RoundTrip.of_audio rfl fun _ _ => rfl

theorem RoundTrip.aMovDD (src : Byte) (dst : Byte) : RoundTrip.Statement (.aMovDD src dst) :=
  RoundTrip.of_audio rfl fun _ _ => rfl

theorem RoundTrip.aMovDI (i : Byte) (d : Byte) : RoundTrip.Statement (.aMovDI i d) :=
  RoundTrip.of_audio rfl fun _ _ => rfl

theorem RoundTrip.aMovIncA : RoundTrip.Statement .aMovIncA := RoundTrip.of_audio rfl fun _ _ => rfl

theorem RoundTrip.aMovAInc : RoundTrip.Statement .aMovAInc := RoundTrip.of_audio rfl fun _ _ => rfl

theorem RoundTrip.aAdc (op : AAlu) : RoundTrip.Statement (.aAdc op) := by
  refine RoundTrip.of_audio rfl fun hw rest => ?_
  cases op with
  | acc s =>
    cases s with
    | imm v => rfl
    | mem md => cases md <;> first | rfl | (apply RoundTrip.audio_w2 <;> rfl) | exact absurd hw Bool.false_ne_true
  | dd s d => rfl
  | dImm v d => rfl
  | xy => rfl

theorem RoundTrip.aSbc (op : AAlu) : RoundTrip.Statement (.aSbc op) := by
  refine RoundTrip.of_audio rfl fun hw rest => ?_
  cases op with
  | acc s =>
    cases s with
    | imm v => rfl
    | mem md => cases md <;> first | rfl | (apply RoundTrip.audio_w2 <;> rfl) | exact absurd hw Bool.false_ne_true
  | dd s d => rfl
  | dImm v d => rfl
  | xy => rfl

theorem RoundTrip.aCmp (op : AAlu) : RoundTrip.Statement (.aCmp op) := by
  refine RoundTrip.of_audio rfl fun hw rest => ?_
  cases op with
  | acc s =>
    cases s with
    | imm v => rfl
    | mem md => cases md <;> first | rfl | (apply RoundTrip.audio_w2 <;> rfl) | exact absurd hw Bool.false_ne_true
  | dd s d => rfl
  | dImm v d => rfl
  | xy => rfl

theorem RoundTrip.aCmpX (src : ASrc) : RoundTrip.Statement (.aCmpX src) := by
  refine RoundTrip.of_audio rfl fun hw rest => ?_
  cases src with
  | imm v => first | rfl | exact absurd hw Bool.false_ne_true
  | mem md => cases md <;> first | rfl | (apply RoundTrip.audio_w2 <;> rfl) | exact absurd hw Bool.false_ne_true

theorem RoundTrip.aCmpY (src : ASrc) : RoundTrip.Statement (.aCmpY src) := by
  refine RoundTrip.of_audio rfl fun hw rest => ?_
  cases src with
  | imm v => first | rfl | exact absurd hw Bool.false_ne_true
  | mem md => cases md <;> first | rfl | (apply RoundTrip.audio_w2 <;> rfl) | exact absurd hw Bool.false_ne_true

theorem RoundTrip.aAnd (op : AAlu) : RoundTrip.Statement (.aAnd op) := by
  refine RoundTrip.of_audio rfl fun hw rest => ?_
  cases op with
  | acc s =>
    cases s with
    | imm v => rfl
    | mem md => cases md <;> first | rfl | (apply RoundTrip.audio_w2 <;> rfl) | exact absurd hw Bool.false_ne_true
  | dd s d => rfl
  | dImm v d => rfl
  | xy => rfl

theorem RoundTrip.aOr (op : AAlu) : RoundTrip.Statement (.aOr op) := by
  refine RoundTrip.of_audio rfl fun hw rest => ?_
  cases op with
  | acc s =>
    cases s with
    | imm v => rfl
    | mem md => cases md <;> first | rfl | (apply RoundTrip.audio_w2 <;> rfl) | exact absurd hw Bool.false_ne_true
  | dd s d => rfl
  | dImm v d => rfl
  | xy => rfl

theorem RoundTrip.aEor (op : AAlu) : RoundTrip.Statement (.aEor op) := by
  refine RoundTrip.of_audio rfl fun hw rest => ?_
  cases op with
  | acc s =>
    cases s with
    | imm v => rfl
    | mem md => cases md <;> first | rfl | (apply RoundTrip.audio_w2 <;> rfl) | exact absurd hw Bool.false_ne_true
  | dd s d => rfl
  | dImm v d => rfl
  | xy => rfl

theorem RoundTrip.aInc (op : ARmw) : RoundTrip.Statement (.aInc op) := by
  refine RoundTrip.of_audio rfl fun hw rest => ?_
  cases op with
  | mem md => cases md <;> first | rfl | (apply RoundTrip.audio_w2 <;> rfl) | exact absurd hw Bool.false_ne_true
  | a => rfl
  | x => first | rfl | exact absurd hw Bool.false_ne_true
  | y => first | rfl | exact absurd hw Bool.false_ne_true

theorem RoundTrip.aDec (op : ARmw) : RoundTrip.Statement (.aDec op) := by
  refine RoundTrip.of_audio rfl fun hw rest => ?_
  cases op with
  | mem md => cases md <;> first | rfl | (apply RoundTrip.audio_w2 <;> rfl) | exact absurd hw Bool.false_ne_true
  | a => rfl
  | x => first | rfl | exact absurd hw Bool.false_ne_true
  | y => first | rfl | exact absurd hw Bool.false_ne_true

theorem RoundTrip.aAsl (op : ARmw) : RoundTrip.Statement (.aAsl op) := by
  refine RoundTrip.of_audio rfl fun hw rest => ?_
  cases op with
  | mem md => cases md <;> first | rfl | (apply RoundTrip.audio_w2 <;> rfl) | exact absurd hw Bool.false_ne_true
  | a => rfl
  | x => first | rfl | exact absurd hw Bool.false_ne_true
  | y => first | rfl | exact absurd hw Bool.false_ne_true

theorem RoundTrip.aLsr (op : ARmw) : RoundTrip.Statement (.aLsr op) := by
  refine RoundTrip.of_audio rfl fun hw rest => ?_
  cases op with
  | mem md => cases md <;> first | rfl | (apply RoundTrip.audio_w2 <;> rfl) | exact absurd hw Bool.false_ne_true
  | a => rfl
  | x => first | rfl | exact absurd hw Bool.false_ne_true
  | y => first | rfl | exact absurd hw Bool.false_ne_true

theorem RoundTrip.aRol (op : ARmw) : RoundTrip.Statement (.aRol op) := by
  refine RoundTrip.of_audio rfl fun hw rest => ?_
  cases op with
  | mem md => cases md <;> first | rfl | (apply RoundTrip.audio_w2 <;> rfl) | exact absurd hw Bool.false_ne_true
  | a => rfl
  | x => first | rfl | exact absurd hw Bool.false_ne_true
  | y => first | rfl | exact absurd hw Bool.false_ne_true

theorem RoundTrip.aRor (op : ARmw) : RoundTrip.Statement (.aRor op) := by
  refine RoundTrip.of_audio rfl fun hw rest => ?_
  cases op with
  | mem md => cases md <;> first | rfl | (apply RoundTrip.audio_w2 <;> rfl) | exact absurd hw Bool.false_ne_true
  | a => rfl
  | x => first | rfl | exact absurd hw Bool.false_ne_true
  | y => first | rfl | exact absurd hw Bool.false_ne_true

theorem RoundTrip.aXcn : RoundTrip.Statement .aXcn := RoundTrip.of_audio rfl fun _ _ => rfl

theorem RoundTrip.aMovwLd (o : Byte) : RoundTrip.Statement (.aMovwLd o) := RoundTrip.of_audio rfl fun _ _ => rfl

theorem RoundTrip.aMovwSt (o : Byte) : RoundTrip.Statement (.aMovwSt o) := RoundTrip.of_audio rfl fun _ _ => rfl

theorem RoundTrip.aIncw (o : Byte) : RoundTrip.Statement (.aIncw o) := RoundTrip.of_audio rfl fun _ _ => rfl

theorem RoundTrip.aDecw (o : Byte) : RoundTrip.Statement (.aDecw o) := RoundTrip.of_audio rfl fun _ _ => rfl

theorem RoundTrip.aAddw (o : Byte) : RoundTrip.Statement (.aAddw o) := RoundTrip.of_audio rfl fun _ _ => rfl

theorem RoundTrip.aSubw (o : Byte) : RoundTrip.Statement (.aSubw o) := RoundTrip.of_audio rfl fun _ _ => rfl

theorem RoundTrip.aCmpw (o : Byte) : RoundTrip.Statement (.aCmpw o) := RoundTrip.of_audio rfl fun _ _ => rfl

theorem RoundTrip.aMul : RoundTrip.Statement .aMul := RoundTrip.of_audio rfl fun _ _ => rfl

theorem RoundTrip.aDiv : RoundTrip.Statement .aDiv := RoundTrip.of_audio rfl fun _ _ => rfl

theorem RoundTrip.aDaa : RoundTrip.Statement .aDaa := RoundTrip.of_audio rfl fun _ _ => rfl

theorem RoundTrip.aDas : RoundTrip.Statement .aDas := RoundTrip.of_audio rfl fun _ _ => rfl

theorem RoundTrip.aBra (rel : Byte) : RoundTrip.Statement (.aBra rel) := RoundTrip.of_audio rfl fun _ _ => rfl

theorem RoundTrip.aBeq (rel : Byte) : RoundTrip.Statement (.aBeq rel) := RoundTrip.of_audio rfl fun _ _ => rfl

theorem RoundTrip.aBne (rel : Byte) : RoundTrip.Statement (.aBne rel) := RoundTrip.of_audio rfl fun _ _ => rfl

theorem RoundTrip.aBcs (rel : Byte) : RoundTrip.Statement (.aBcs rel) := RoundTrip.of_audio rfl fun _ _ => rfl

theorem RoundTrip.aBcc (rel : Byte) : RoundTrip.Statement (.aBcc rel) := RoundTrip.of_audio rfl fun _ _ => rfl

theorem RoundTrip.aBvs (rel : Byte) : RoundTrip.Statement (.aBvs rel) := RoundTrip.of_audio rfl fun _ _ => rfl

theorem RoundTrip.aBvc (rel : Byte) : RoundTrip.Statement (.aBvc rel) := RoundTrip.of_audio rfl fun _ _ => rfl

theorem RoundTrip.aBmi (rel : Byte) : RoundTrip.Statement (.aBmi rel) := RoundTrip.of_audio rfl fun _ _ => rfl

theorem RoundTrip.aBpl (rel : Byte) : RoundTrip.Statement (.aBpl rel) := RoundTrip.of_audio rfl fun _ _ => rfl

theorem RoundTrip.aBbs (b : BitVec 3) (d : Byte) (rel : Byte) : RoundTrip.Statement (.aBbs b d rel) := by
  refine RoundTrip.of_audio rfl fun _ rest => ?_
  rcases RoundTrip.bit_cases b with rfl | rfl | rfl | rfl | rfl | rfl | rfl | rfl <;> rfl

theorem RoundTrip.aBbc (b : BitVec 3) (d : Byte) (rel : Byte) : RoundTrip.Statement (.aBbc b d rel) := by
  refine RoundTrip.of_audio rfl fun _ rest => ?_
  rcases RoundTrip.bit_cases b with rfl | rfl | rfl | rfl | rfl | rfl | rfl | rfl <;> rfl

theorem RoundTrip.aCbne (d : Byte) (rel : Byte) : RoundTrip.Statement (.aCbne d rel) :=
  RoundTrip.of_audio rfl fun _ _ => rfl

theorem RoundTrip.aCbneX (d : Byte) (rel : Byte) : RoundTrip.Statement (.aCbneX d rel) :=
  RoundTrip.of_audio rfl fun _ _ => rfl

theorem RoundTrip.aDbnz (d : Byte) (rel : Byte) : RoundTrip.Statement (.aDbnz d rel) :=
  RoundTrip.of_audio rfl fun _ _ => rfl

theorem RoundTrip.aDbnzY (rel : Byte) : RoundTrip.Statement (.aDbnzY rel) := RoundTrip.of_audio rfl fun _ _ => rfl

theorem RoundTrip.aJmp (a : Word) : RoundTrip.Statement (.aJmp a) :=
  RoundTrip.of_audio rfl fun _ rest => by apply RoundTrip.audio_w2 <;> rfl

theorem RoundTrip.aJmpInd (a : Word) : RoundTrip.Statement (.aJmpInd a) :=
  RoundTrip.of_audio rfl fun _ rest => by apply RoundTrip.audio_w2 <;> rfl

theorem RoundTrip.aCall (a : Word) : RoundTrip.Statement (.aCall a) :=
  RoundTrip.of_audio rfl fun _ rest => by apply RoundTrip.audio_w2 <;> rfl

theorem RoundTrip.aPcall (u : Byte) : RoundTrip.Statement (.aPcall u) := RoundTrip.of_audio rfl fun _ _ => rfl

theorem RoundTrip.aTcall (n : BitVec 4) : RoundTrip.Statement (.aTcall n) := by
  refine RoundTrip.of_audio rfl fun _ rest => ?_
  rcases RoundTrip.vector_cases n with rfl | rfl | rfl | rfl | rfl | rfl | rfl | rfl | rfl | rfl | rfl | rfl | rfl | rfl | rfl | rfl <;>
    rfl

theorem RoundTrip.aBrk : RoundTrip.Statement .aBrk := RoundTrip.of_audio rfl fun _ _ => rfl

theorem RoundTrip.aRet : RoundTrip.Statement .aRet := RoundTrip.of_audio rfl fun _ _ => rfl

theorem RoundTrip.aReti : RoundTrip.Statement .aReti := RoundTrip.of_audio rfl fun _ _ => rfl

theorem RoundTrip.aPush (r : AStackReg) : RoundTrip.Statement (.aPush r) :=
  by cases r <;> exact RoundTrip.of_audio rfl fun _ _ => rfl

theorem RoundTrip.aPop (r : AStackReg) : RoundTrip.Statement (.aPop r) :=
  by cases r <;> exact RoundTrip.of_audio rfl fun _ _ => rfl

theorem RoundTrip.aSet1 (b : BitVec 3) (d : Byte) : RoundTrip.Statement (.aSet1 b d) := by
  refine RoundTrip.of_audio rfl fun _ rest => ?_
  rcases RoundTrip.bit_cases b with rfl | rfl | rfl | rfl | rfl | rfl | rfl | rfl <;> rfl

theorem RoundTrip.aClr1 (b : BitVec 3) (d : Byte) : RoundTrip.Statement (.aClr1 b d) := by
  refine RoundTrip.of_audio rfl fun _ rest => ?_
  rcases RoundTrip.bit_cases b with rfl | rfl | rfl | rfl | rfl | rfl | rfl | rfl <;> rfl

theorem RoundTrip.aTset1 (a : Word) : RoundTrip.Statement (.aTset1 a) :=
  RoundTrip.of_audio rfl fun _ rest => by apply RoundTrip.audio_w2 <;> rfl

theorem RoundTrip.aTclr1 (a : Word) : RoundTrip.Statement (.aTclr1 a) :=
  RoundTrip.of_audio rfl fun _ rest => by apply RoundTrip.audio_w2 <;> rfl

theorem RoundTrip.aAnd1 (neg : Bool) (m : BitVec 13) (b : BitVec 3) : RoundTrip.Statement (.aAnd1 neg m b) :=
  by cases neg <;> exact RoundTrip.of_audio rfl fun _ rest => by apply RoundTrip.audio_mb <;> rfl

theorem RoundTrip.aOr1 (neg : Bool) (m : BitVec 13) (b : BitVec 3) : RoundTrip.Statement (.aOr1 neg m b) :=
  by cases neg <;> exact RoundTrip.of_audio rfl fun _ rest => by apply RoundTrip.audio_mb <;> rfl

theorem RoundTrip.aEor1 (m : BitVec 13) (b : BitVec 3) : RoundTrip.Statement (.aEor1 m b) :=
  RoundTrip.of_audio rfl fun _ rest => by apply RoundTrip.audio_mb <;> rfl

theorem RoundTrip.aNot1 (m : BitVec 13) (b : BitVec 3) : RoundTrip.Statement (.aNot1 m b) :=
  RoundTrip.of_audio rfl fun _ rest => by apply RoundTrip.audio_mb <;> rfl

theorem RoundTrip.aMov1Ld (m : BitVec 13) (b : BitVec 3) : RoundTrip.Statement (.aMov1Ld m b) :=
  RoundTrip.of_audio rfl fun _ rest => by apply RoundTrip.audio_mb <;> rfl

theorem RoundTrip.aMov1St (m : BitVec 13) (b : BitVec 3) : RoundTrip.Statement (.aMov1St m b) :=
  RoundTrip.of_audio rfl fun _ rest => by apply RoundTrip.audio_mb <;> rfl

theorem RoundTrip.aClrc : RoundTrip.Statement .aClrc := RoundTrip.of_audio rfl fun _ _ => rfl

theorem RoundTrip.aSetc : RoundTrip.Statement .aSetc := RoundTrip.of_audio rfl fun _ _ => rfl

theorem RoundTrip.aNotc : RoundTrip.Statement .aNotc := RoundTrip.of_audio rfl fun _ _ => rfl

theorem RoundTrip.aClrv : RoundTrip.Statement .aClrv := RoundTrip.of_audio rfl fun _ _ => rfl

theorem RoundTrip.aClrp : RoundTrip.Statement .aClrp := RoundTrip.of_audio rfl fun _ _ => rfl

theorem RoundTrip.aSetp : RoundTrip.Statement .aSetp := RoundTrip.of_audio rfl fun _ _ => rfl

theorem RoundTrip.aEi : RoundTrip.Statement .aEi := RoundTrip.of_audio rfl fun _ _ => rfl

theorem RoundTrip.aDi : RoundTrip.Statement .aDi := RoundTrip.of_audio rfl fun _ _ => rfl

theorem RoundTrip.aNop : RoundTrip.Statement .aNop := RoundTrip.of_audio rfl fun _ _ => rfl

theorem RoundTrip.aSleep : RoundTrip.Statement .aSleep := RoundTrip.of_audio rfl fun _ _ => rfl

theorem RoundTrip.aStop : RoundTrip.Statement .aStop := RoundTrip.of_audio rfl fun _ _ => rfl

end Sys2Proof.Laws
end

