-- ==== Sys2Proof/Tests/Slice0.lean ====
section
/-!
SUPPORT. The model's own tests: ill-formed terms, words written out from the spec's encodings, one step of every instruction
with the result its rule's example or the spec's test vectors give, and a witness for the hypotheses of every statement.
-/

open Sys2Proof Sys2Proof.Machine

namespace Sys2Proof.Tests

/-! ## Helpers -/

/-- Work RAM holding the bytes listed, addresses rising. -/
def wramOf (m : List (Nat × Byte)) (s : State) : State := s.onWram fun _ => m

/-- The state after reset in native mode with P, PC at 0x8000 and the registers `f` sets. -/
def native (p : Byte) (f : Cpu → Cpu) : State :=
  State.reset.onCpu fun b => f { b with p := p, e := false, pc := 0x8000 }

/-- The state after reset in emulation mode with the registers `f` sets. -/
def emulation (p : Byte) (f : Cpu → Cpu) : State := State.reset.onCpu fun b => f { b with p := p ||| 0x30, pc := 0x8000 }

/-- What is seen of the state after one main-CPU instruction given by its bytes, decoded in the state's widths. -/
def run {α : Type} (s : State) (bytes : List Byte) (see : State → α) : Option α :=
  match decodeMain (s.cpu.flag fM) (s.cpu.flag fX) bytes with
  | some (i, []) =>
    match exec i (s.onCpu fun b => { b with pc := b.pc + BitVec.ofNat 16 bytes.length }) with
    | .next t => some (see t)
    | .fault _ => none
    | .refused _ => none
  | _ => none

/-- The state after reset with the audio registers `f` sets, pc at 0x0200. -/
def audio (psw : Byte) (f : Apu → Apu) : State := State.reset.onApu fun u => f { u with psw := psw, pc := 0x0200, sp := 0xEF }

/-- Audio RAM holding the bytes listed, addresses rising. -/
def aramOf (m : List (Nat × Byte)) (s : State) : State := s.onApu fun u => { u with aram := m }

/-- What is seen of the audio side after one audio instruction given by its bytes. -/
def arun {α : Type} (s : State) (bytes : List Byte) (see : Apu → α) : Option α :=
  match decodeAudio bytes with
  | some (i, []) =>
    match exec i (s.onApu fun u => { u with pc := u.pc + BitVec.ofNat 16 bytes.length }) with
    | .next t => some (see t.apu)
    | .fault _ => none
    | .refused _ => none
  | _ => none

/-- The flags N, Z and C. -/
def nzc (t : State) : Bool × Bool × Bool := (t.cpu.flag fN, t.cpu.flag fZ, t.cpu.flag fC)

/-- The flags n, z and c. -/
def anzc (u : Apu) : Bool × Bool × Bool := (u.psw.getLsbD aN, u.psw.getLsbD aZ, u.psw.getLsbD aC)

/-- A byte of audio RAM. -/
def aramAt (u : Apu) (a : Nat) : Byte := Cells.read 0 a u.aram

/-! ## Well-formedness: an ill-formed term for each check is refused -/

/-- No store mode takes an index in Y from the direct page: LDA has no `dpy` form (R450). -/
theorem refused_lda_dpy : (Instr.lda (.mem (.dpy 0x10))).wf = false := by decide
/-- R530. -/
theorem refused_adc_dpy : (Instr.adc (.mem (.dpy 0x10))).wf = false := by decide
/-- R533. -/
theorem refused_sbc_dpy : (Instr.sbc (.mem (.dpy 0x10))).wf = false := by decide
/-- R536. -/
theorem refused_cmp_dpy : (Instr.cmp (.mem (.dpy 0x10))).wf = false := by decide
/-- R539 to R541. -/
theorem refused_logic_dpy :
    (Instr.and (.mem (.dpy 0x10))).wf = false ∧ (Instr.ora (.mem (.dpy 0x10))).wf = false ∧
      (Instr.eor (.mem (.dpy 0x10))).wf = false := by decide
/-- LDX has no form indexed by X (R451). -/
theorem refused_ldx_absx : (Instr.ldx (.mem (.absx 0x1000))).wf = false := by decide
/-- LDY has no form indexed by Y (R452). -/
theorem refused_ldy_absy : (Instr.ldy (.mem (.absy 0x1000))).wf = false := by decide
/-- R537, R538. -/
theorem refused_index_compares :
    (Instr.cpx (.mem (.dpx 0x10))).wf = false ∧ (Instr.cpy (.mem (.long 0x7E0000))).wf = false := by decide
/-- R542. -/
theorem refused_bit_long : (Instr.bit (.mem (.long 0x7E0000))).wf = false := by decide
/-- R453 to R456. -/
theorem refused_stores :
    (Instr.sta (.dpy 0x10)).wf = false ∧ (Instr.stx (.dpx 0x10)).wf = false ∧ (Instr.sty (.dpy 0x10)).wf = false ∧
      (Instr.stz (.long 0x7E0000)).wf = false := by decide
/-- R543, R544. -/
theorem refused_test_bits : (Instr.tsb (.dpx 0x10)).wf = false ∧ (Instr.trb (.absx 0x10)).wf = false := by decide
/-- R545, R546, R551 to R554. -/
theorem refused_read_modify_write :
    (Instr.inc (.mem (.long 0x7E0000))).wf = false ∧ (Instr.dec (.mem (.absy 0))).wf = false ∧
      (Instr.asl (.mem (.sr 0))).wf = false ∧ (Instr.lsr (.mem (.dpind 0))).wf = false ∧
      (Instr.rol (.mem (.dpy 0))).wf = false ∧ (Instr.ror (.mem (.longx 0))).wf = false := by decide
/-- R654. -/
theorem refused_audio_loads :
    (Instr.aMovA (.mem (.dy 0x10))).wf = false ∧ (Instr.aMovX (.mem (.dx 0x10))).wf = false ∧
      (Instr.aMovY (.mem (.dy 0x10))).wf = false := by decide
/-- R655. -/
theorem refused_audio_stores :
    (Instr.aMovStA (.dy 0x10)).wf = false ∧ (Instr.aMovStX (.dx 0x10)).wf = false ∧ (Instr.aMovStY (.dy 0x10)).wf = false := by
  decide
/-- R660 to R665. -/
theorem refused_audio_alu :
    (Instr.aAdc (.acc (.mem (.dy 0)))).wf = false ∧ (Instr.aSbc (.acc (.mem (.dy 0)))).wf = false ∧
      (Instr.aCmp (.acc (.mem (.dy 0)))).wf = false ∧ (Instr.aAnd (.acc (.mem (.dy 0)))).wf = false ∧
      (Instr.aOr (.acc (.mem (.dy 0)))).wf = false ∧ (Instr.aEor (.acc (.mem (.dy 0)))).wf = false := by decide
/-- R662. -/
theorem refused_audio_index_compares :
    (Instr.aCmpX (.mem .ix)).wf = false ∧ (Instr.aCmpY (.mem (.dx 0))).wf = false := by decide
/-- R666 to R671. -/
theorem refused_audio_read_modify_write :
    (Instr.aInc (.mem .ix)).wf = false ∧ (Instr.aDec (.mem (.absx 0))).wf = false ∧ (Instr.aAsl .x).wf = false ∧
      (Instr.aLsr .y).wf = false ∧ (Instr.aRol (.mem (.dy 0))).wf = false ∧ (Instr.aRor (.mem (.absy 0))).wf = false := by decide
/-- An immediate of the width the flag does not give (R303, R405). -/
theorem refused_immediate_widths :
    (Instr.lda (.imm (.b16 1))).fits true true = false ∧ (Instr.ldx (.imm (.b8 1))).fits true false = false := by decide

/-! ## Decoding: a word of each family, from the maps of R305 and R313, bit by bit -/

/-- The families of the main CPU (R305). -/
theorem decoded_main :
    decodeMain true true [0b10110101, 0x10] = some (.lda (.mem (.dpx 0x10)), []) ∧
    decodeMain true true [0b10000001, 0x10] = some (.sta (.dpxind 0x10), []) ∧
    decodeMain true true [0b10011011] = some (.txy, []) ∧
    decodeMain true true [0b01000100, 0x7E, 0x7F] = some (.mvp 0x7E 0x7F, []) ∧
    decodeMain true true [0b01100010, 0x34, 0x12] = some (.per 0x1234, []) ∧
    decodeMain true true [0b11110011, 0x10] = some (.sbc (.mem (.sriy 0x10)), []) ∧
    decodeMain true true [0b00011100, 0x34, 0x12] = some (.trb (.abs 0x1234), []) := by decide

/-- The other families of the main CPU (R305). -/
theorem decoded_main_others :
    decodeMain true true [0b01101010] = some (.ror .acc, []) ∧
    decodeMain true true [0b10000010, 0xFD, 0x7F] = some (.brl 0x7FFD, []) ∧
    decodeMain true true [0b00100010, 0x56, 0x34, 0x12] = some (.jsl 0x123456, []) ∧
    decodeMain true true [0b00000000, 0x42] = some (.brk 0x42, []) ∧
    decodeMain true true [0b11111011] = some (.xce, []) := by decide

/-- The families of the audio CPU (R312, R313). -/
theorem decoded_audio :
    decodeAudio [0b11010111, 0x10] = some (.aMovStA (.idy 0x10), []) ∧
    decodeAudio [0b10001111, 0x42, 0x10] = some (.aMovDI 0x42 0x10, []) ∧
    decodeAudio [0b00111000, 0x80, 0x30] = some (.aAnd (.dImm 0x80 0x30), []) ∧
    decodeAudio [0b01111001] = some (.aCmp .xy, []) ∧
    decodeAudio [0b10011011, 0x10] = some (.aDec (.mem (.dx 0x10)), []) ∧
    decodeAudio [0b01111010, 0x10] = some (.aAddw 0x10, []) := by decide

/-- The other families of the audio CPU (R312, R313). -/
theorem decoded_audio_others :
    decodeAudio [0b11000011, 0x10, 0xFE] = some (.aBbs 6 0x10 0xFE, []) ∧
    decodeAudio [0b01011111, 0x34, 0x12] = some (.aJmp 0x1234, []) ∧
    decodeAudio [0b01110001] = some (.aTcall 7, []) ∧
    decodeAudio [0b01110010, 0x10] = some (.aClr1 3 0x10, []) ∧
    decodeAudio [0b01101010, 0x10, 0x20] = some (.aAnd1 true 0x0010 1, []) ∧
    decodeAudio [0b11101101] = some (.aNotc, []) := by decide

/-! ## The host's entry points -/

/-- A table word is decoded with the operand bytes above it zero (log 16). -/
theorem table_word : decodeTableWord 8 0xAD = some (.lda (.mem (.abs 0))) ∧ decodeTableWord 16 0x12A9 = some (.lda (.imm (.b8 0x12))) := by
  decide

/-- The fields of the machine after a step that completes. -/
def afterStep {α : Type} (s : State) (see : State → α) : Option α :=
  match step s with
  | .next t => some (see t)
  | .fault _ => none
  | .refused _ => none

/-- The first instruction after reset is the one placed; NOP takes 2 cycles of 6 master ticks (R631, R855; log 2). -/
theorem first_step_nop :
    afterStep (State.reset.withFetchWord 8 0xEA) (fun t => (t.cpu.pc, t.cpu.cycles, t.sched.master)) = some (1, 2, 12) := by decide

/-- A store through the default cartridge's reset state (R453). -/
theorem first_step_sta : afterStep (State.reset.withFetchWord 24 0x00108D) (fun t => (t.cpu.pc, t.cpu.cycles)) = some (3, 4) := by
  decide

/-! ## Devices and the exception entry, from the examples of the rules cited -/

/-- What is seen of the state after a bus write. -/
def wrote {α : Type} (a : Addr) (v : Byte) (s : State) (see : State → α) : Option α :=
  match (write8 a v).run s with
  | .ok _ t => some (see t)
  | .error _ _ => none

/-- 0xFF times 0xFF (R961). -/
theorem device_multiply :
    wrote 0x004203 0xFF (State.reset.onMath fun u => { u with wrmpya := 0xFF }) (·.math.rdmpy) = some 0xFE01 := by decide

/-- 0x1234 divided by 0x10, and 0xABCD by 0 (R963). -/
theorem device_divide :
    wrote 0x004206 0x10 (State.reset.onMath fun u => { u with wrdiv := 0x1234 }) (fun t => (t.math.rddiv, t.math.rdmpy)) =
        some (0x0123, 0x0004) ∧
      wrote 0x004206 0 (State.reset.onMath fun u => { u with wrdiv := 0xABCD }) (fun t => (t.math.rddiv, t.math.rdmpy)) =
        some (0xFFFF, 0xABCD) := by decide

/-- The Mode-7 product of 0x0100 and -2 (R967). -/
theorem device_mode7 : mpy { State.reset.ppu with m7a := 0x0100, m7b := 0xFE00 } = 0xFFFE00 := by decide

/-- The decimal 0x9999 + 1 at 16 bits (R532). -/
theorem decimal_wraps : (adcResult true .w16 0x9999 0x0001 false).r = 0 ∧ (adcResult true .w16 0x9999 0x0001 false).c = true := by
  decide

/-- A word of the boot ROM: BRK's vector is 0xF5E4 while it is mapped (R738, R990). -/
theorem boot_rom_vector : iplByte 30 = 0xE4 ∧ iplByte 31 = 0xF5 := by decide

/-- The OAM pointer at the edges of the two tables: words 0x0FF, 0x100, 0x10F, 0x110 and 0x1FF (R881). -/
theorem device_oam_pointer :
    [(0x0FF : BitVec 9), 0x100, 0x10F, 0x110, 0x1FF].map (fun a =>
      (wrote 0x002102 (a.extractLsb' 0 8) (State.reset.onPpu fun u => { u with oamaddr := a &&& 0x100 }) (·.ppu.oamptr.toNat))) =
      [some 510, some 512, some 542, some 512, some 542] ∧
    wrote 0x002103 0x81 (State.reset.onPpu fun u => { u with oamaddr := 0x010 })
      (fun t => (t.ppu.oamaddr, t.ppu.oamprio, t.ppu.oamptr.toNat)) = some (0x110, true, 512) := by decide

/-- M7D takes the shared latch, M7SEL does not (R968). -/
theorem device_mode7_stored :
    wrote 0x00211E 0x12 (State.reset.onPpu fun u => { u with m7latch := 0x34 })
      (fun t => (t.ppu.stored.m7d, t.ppu.m7latch)) = some (0x1234, 0x12) ∧
    wrote 0x00211A 0x12 (State.reset.onPpu fun u => { u with m7latch := 0x34 })
      (fun t => (t.ppu.stored.m7sel, t.ppu.m7latch)) = some (0x12, 0x34) := by decide

/-- A mode-0 pixel of BG1: entry 0x0401 is tile 1 of palette group 1, whose first row is 0x8080: column 0 has colour 3, palette index 7;
flipped horizontally the same pixel is column 7, which is transparent (R906 to R909). -/
theorem device_pixel :
    let u := fun (e : Word) =>
      { State.reset.ppu with
        tm := 1, bg := State.reset.ppu.bg.on 0 (fun b => { b with chbase := 1 }), vram := [(0, e), (0x1008, 0x8080)] }
    layerPixel (u 0x0401) 0 .any 0 0 = 7 ∧ layerPixel (u 0x4401) 0 .any 0 0 = 0 ∧ layerPixel (u 0x4401) 0 .any 0 7 = 7 ∧
      layerPixel (u 0x0401) 0 .high 0 0 = 0 := by decide

/-- A DMA channel byte at the last address of the block (R951). -/
theorem device_dma_byte : wrote 0x00437B 0x42 State.reset (fun t => dmaByte t 7 11) = some 0x42 := by decide

/-! ## The parameters of time, and what the host gets back -/

/-- A cost the parameter lists is charged in place of the default (R11, R1090). -/
theorem cost_listed :
    let key : CpuCostKey :=
      { op := 0xEA, e := true, p := 0x34, dlNonzero := false, indexCrosses := false, taken := false, branchCrosses := false }
    let cfg := { Config.default with cpuCosts := [(key, 5)], spcCosts := [(⟨0x00, false⟩, 9)], dmaCosts := [(4, 32)] }
    instrCost cfg .nop (Cpu.reset 0) Facts.plain = 5 ∧ instrCost cfg .wai (Cpu.reset 0) Facts.plain = 3 ∧
      audioCost cfg .aNop false = 9 ∧ audioCost cfg .aSleep false = 3 ∧ dmaMaster cfg 4 = 32 ∧ dmaMaster cfg 8 = 0 := by decide

/-- STP: the step that runs it and every later one are `Halted` (R634, R851). -/
theorem host_halted :
    (∃ t, hostStep (State.reset.withFetchWord 8 0xDB) = .halted t) ∧ (∃ t, hostStep (State.reset.withFetchWord 8 0xEA) = .ok t) :=
  ⟨⟨_, rfl⟩, ⟨_, rfl⟩⟩

/-- A load in the middle of a run starts a new run: the next step is refused until `reset()` (R1062, R1065, R1066). -/
theorem host_second_load :
    let k : Cartridge := { mapper := .loRom, rom := [], romSize := 0x8000, sramSize := 0, save := none, battery := false }
    step (loadRom k (State.reset.withFetchWord 8 0xEA)) = .refused .stepBeforeReset ∧
      (loadRom k (State.reset.withFetchWord 8 0xEA)).fatal = none := ⟨rfl, rfl⟩

/-- PC at WMDATA, which gives a NOP. -/
def nopAtPort : State := wramOf [(0, 0xEA)] (State.reset.onCpu fun b => { b with pc := 0x2180 })

/-- An unimplemented opcode fetched from WMDATA: the access stands, PC is at the opcode (R233, R635, R830). -/
theorem unimplemented_from_device :
    (match step { nopAtPort with
        cfg := { nopAtPort.cfg with unimplOps := [0xEA] } } with
      | .fault (.fatal (.unimplementedOpcode k pc op) t) => some (k, pc, op, t.cpu.pc, t.wmadd)
      | _ => none) = some (0x00, 0x2180, 0xEA, 0x2180, 1) := by decide

/-- An audio opcode in `P_UNIMPL_SPC_OPS` at 0x0200 (the vector P87), and one fetched from T0OUT, whose read clears the counter: the fault
names the opcode and its pc, the fetch stands, nothing else has changed (R650, R763, R830). -/
theorem unimplemented_audio :
    let u := { State.reset.apu with pc := 0x0200 }
    let v := { State.reset.apu with pc := 0x00FD, timer0 := { State.reset.apu.timer0 with out := 5 } }
    let cfg := { Config.default with unimplSpcOps := [0x00, 0x05] }
    audioInstruction cfg u = ({ u with pc := 0x0201 }, some (.fatal (.unimplementedSpcOpcode 0x0200 0x00))) ∧
      audioInstruction cfg v = ({ State.reset.apu with pc := 0x00FE }, some (.fatal (.unimplementedSpcOpcode 0x00FD 0x05))) := by decide

/-- A full reset whose HBLANK falls after the sentinel: the sentinel is first, and due first (R181, R850, R862). -/
theorem reset_queue_in_order :
    let s := resetMachine { State.reset with
      cfg := { Config.default with resetScope := .full, hblankMaster := 2 ^ 64 }, sched := { State.reset.sched with master := 5 } }
    s.sched.queue.map (fun e => (e.kind, e.ts)) = [(.sentinel, 2 ^ 64 - 1), (.hblank, 2 ^ 64 + 5)] ∧
      (powerOn { Config.default with hblankMaster := 2 ^ 64 }).sched.queue.map (·.kind) = [.sentinel, .hblank] ∧
      (powerOn Config.default).sched.queue.map (·.kind) = [.hblank, .sentinel] := by decide

/-- The map at its edges: the WRAM mirror, the I/O window, LoROM and WRAM (R221, R222). -/
theorem map_edges :
    rpage Config.default 0x001FFF = some (.wram, 0x1FFF) ∧ rpage Config.default 0x3F2000 = none ∧
      rpage Config.default 0x005FFF = none ∧ rpage Config.default 0x006000 = none ∧
      rpage Config.default 0x808000 = some (.rom, 0) ∧ rpage Config.default 0x7FFFFF = some (.wram, 0x1FFFF) := by decide

/-! ## One step of each main-CPU instruction, from the examples of the rules cited -/

/-- R450. -/
theorem test_lda :
    run (native 0x20 fun b => { b with c := 0x1234 }) [0xA9, 0x80]
      (fun t => (t.cpu.c, t.cpu.flag fN, t.cpu.flag fZ)) = some (0x1280, true, false) := by decide

/-- R451. -/
theorem test_ldx :
    run (native 0x20 id) [0xA2, 0x00, 0x80]
      (fun t => (t.cpu.x, t.cpu.flag fN)) = some (0x8000, true) := by decide

/-- R452. -/
theorem test_ldy :
    run (native 0x10 id) [0xA0, 0x00]
      (fun t => (t.cpu.y, t.cpu.flag fZ)) = some (0, true) := by decide

/-- R453. -/
theorem test_sta :
    run (native 0x00 fun b => { b with c := 0xBEEF, dbr := 0x7E }) [0x8D, 0x00, 0x20]
      (fun t => t.wram) = some [(0x2000, 0xEF), (0x2001, 0xBE)] := by decide

/-- R454. -/
theorem test_stx :
    run (native 0x30 fun b => { b with x := 0x42 }) [0x86, 0x10]
      (fun t => t.wram) = some [(0x10, 0x42)] := by decide

/-- R455. -/
theorem test_sty :
    run (native 0x00 fun b => { b with y := 0x1234 }) [0x8C, 0x00, 0x00]
      (fun t => t.wram) = some [(0, 0x34), (1, 0x12)] := by decide

/-- R456. -/
theorem test_stz :
    run (native 0x00 id) [0x9C, 0x0B, 0x42]
      (fun t => (t.hdmaen, t.sched.master)) = some (0, 0) := by decide

/-- R457. -/
theorem test_tax :
    run (native 0x20 fun b => { b with c := 0x12F0 }) [0xAA]
      (fun t => (t.cpu.x, t.cpu.flag fN)) = some (0x12F0, false) := by decide

/-- R458. -/
theorem test_tay :
    run (native 0x10 fun b => { b with c := 0x12F0 }) [0xA8]
      (fun t => (t.cpu.y, t.cpu.flag fN)) = some (0x00F0, true) := by decide

/-- R459. -/
theorem test_txa :
    run (native 0x10 fun b => { b with x := 0x80, c := 0xFFFF }) [0x8A]
      (fun t => (t.cpu.c, t.cpu.flag fN)) = some (0x0080, false) := by decide

/-- R460. -/
theorem test_tya :
    run (native 0x20 fun b => { b with y := 0, c := 0xFF55 }) [0x98]
      (fun t => (t.cpu.c, t.cpu.flag fZ)) = some (0xFF00, true) := by decide

/-- R461. -/
theorem test_txy :
    run (native 0x20 fun b => { b with x := 0x8000 }) [0x9B]
      (fun t => (t.cpu.y, t.cpu.flag fN)) = some (0x8000, true) := by decide

/-- R462. -/
theorem test_tyx :
    run (native 0x20 fun b => { b with x := 5 }) [0xBB]
      (fun t => (t.cpu.x, t.cpu.flag fZ)) = some (0, true) := by decide

/-- R463. -/
theorem test_tsx :
    run (emulation 0 fun b => { b with s := 0x01FD }) [0xBA]
      (fun t => (t.cpu.x, t.cpu.flag fN)) = some (0x00FD, true) := by decide

/-- R464. -/
theorem test_txs :
    run (native 0x20 fun b => { b with x := 0x1FFF }) [0x9A]
      (fun t => (t.cpu.s, t.cpu.p)) = some (0x1FFF, 0x20) := by decide

/-- R465. -/
theorem test_tcs :
    run (native 0x20 fun b => { b with c := 0x1FF0 }) [0x1B]
      (fun t => (t.cpu.s, t.cpu.p)) = some (0x1FF0, 0x20) := by decide

/-- R466. -/
theorem test_tsc :
    run (native 0x30 fun b => { b with s := 0x01FF }) [0x3B]
      (fun t => (t.cpu.c, t.cpu.flag fN, t.cpu.flag fZ)) = some (0x01FF, false, false) := by decide

/-- R467. -/
theorem test_tcd :
    run (native 0x30 fun b => { b with d := 0x1234 }) [0x5B]
      (fun t => (t.cpu.d, t.cpu.flag fZ)) = some (0, true) := by decide

/-- R468. -/
theorem test_tdc :
    run (native 0x20 fun b => { b with d := 0x8000 }) [0x7B]
      (fun t => (t.cpu.c, t.cpu.flag fN)) = some (0x8000, true) := by decide

/-- R469. -/
theorem test_xba :
    run (native 0x20 fun b => { b with c := 0x80FF }) [0xEB]
      (fun t => (t.cpu.c, t.cpu.flag fN, t.cpu.flag fZ)) = some (0xFF80, true, false) := by decide

/-- R470. -/
theorem test_mvn :
    run (wramOf [(0x11000, 0x42)] (native 0x00 fun b => { b with c := 2, x := 0x1000, y := 0x2000 })) [0x54, 0x7E, 0x7F]
      (fun t => (t.wram, t.cpu.c, t.cpu.x, t.cpu.y, t.cpu.dbr, t.cpu.pc)) = some ([(0x2000, 0x42), (0x11000, 0x42)], 1, 0x1001, 0x2001, 0x7E, 0x8000) := by decide

/-- R471. -/
theorem test_mvp :
    run (wramOf [(0x1000, 0x42)] (native 0x00 fun b => { b with c := 0, x := 0x1000, y := 0x0200 })) [0x44, 0x00, 0x00]
      (fun t => (t.wram, t.cpu.c, t.cpu.x, t.cpu.y, t.cpu.pc)) = some ([(0x200, 0x42), (0x1000, 0x42)], 0xFFFF, 0x0FFF, 0x01FF, 0x8003) := by decide

/-- R502. -/
theorem test_pha :
    run (native 0x10 fun b => { b with c := 0x1234, s := 0x1FFF }) [0x48]
      (fun t => (t.wram, t.cpu.s)) = some ([(0x1FFE, 0x34), (0x1FFF, 0x12)], 0x1FFD) := by decide

/-- R503. -/
theorem test_phx :
    run (native 0x30 fun b => { b with x := 0x42 }) [0xDA]
      (fun t => (t.wram, t.cpu.s)) = some ([(0x1FF, 0x42)], 0x01FE) := by decide

/-- R504. -/
theorem test_phy :
    run (native 0x30 fun b => { b with y := 0x42 }) [0x5A]
      (fun t => (t.wram, t.cpu.s)) = some ([(0x1FF, 0x42)], 0x01FE) := by decide

/-- R505. -/
theorem test_php :
    run (emulation 0x04 id) [0x08]
      (fun t => (t.wram, t.cpu.s)) = some ([(0x1FF, 0x34)], 0x01FE) := by decide

/-- R506. -/
theorem test_phb :
    run (native 0x30 fun b => { b with dbr := 0x7E }) [0x8B]
      (fun t => (t.wram, t.cpu.s)) = some ([(0x1FF, 0x7E)], 0x01FE) := by decide

/-- R507. -/
theorem test_phk :
    run (native 0x30 fun b => { b with pbr := 0x80 }) [0x4B]
      (fun t => (t.wram, t.cpu.s)) = some ([(0x1FF, 0x80)], 0x01FE) := by decide

/-- R508. -/
theorem test_phd :
    run (native 0x30 fun b => { b with d := 0x2100 }) [0x0B]
      (fun t => (t.wram, t.cpu.s)) = some ([(0x1FF, 0x21)], 0x01FD) := by decide

/-- R509. -/
theorem test_pla :
    run (native 0x20 fun b => { b with c := 0x1234 }) [0x68]
      (fun t => (t.cpu.c, t.cpu.flag fZ, t.cpu.s)) = some (0x1200, true, 0x0200) := by decide

/-- R510. -/
theorem test_plx :
    run (wramOf [(0x201, 0x80)] (native 0x20 id)) [0xFA]
      (fun t => (t.cpu.x, t.cpu.flag fN, t.cpu.s)) = some (0x8000, true, 0x0201) := by decide

/-- R511. -/
theorem test_ply :
    run (wramOf [(0x201, 0x80)] (native 0x20 id)) [0x7A]
      (fun t => (t.cpu.y, t.cpu.flag fN, t.cpu.s)) = some (0x8000, true, 0x0201) := by decide

/-- R512. -/
theorem test_plp :
    run (wramOf [(0x200, 0x30)] (native 0x00 fun b => { b with x := 0x1234 })) [0x28]
      (fun t => (t.cpu.p, t.cpu.x)) = some (0x30, 0x0034) := by decide

/-- R513. -/
theorem test_plb :
    run (wramOf [(0x200, 0x80)] (native 0x30 id)) [0xAB]
      (fun t => (t.cpu.dbr, t.cpu.flag fN)) = some (0x80, true) := by decide

/-- R514. -/
theorem test_pld :
    run (native 0x30 fun b => { b with d := 0x1234 }) [0x2B]
      (fun t => (t.cpu.d, t.cpu.flag fZ)) = some (0, true) := by decide

/-- R515. -/
theorem test_pea :
    run (native 0x30 id) [0xF4, 0x34, 0x12]
      (fun t => (t.wram, t.cpu.s)) = some ([(0x1FE, 0x34), (0x1FF, 0x12)], 0x01FD) := by decide

/-- R516. -/
theorem test_pei :
    run (wramOf [(0x10, 0xCD), (0x11, 0xAB)] (native 0x30 id)) [0xD4, 0x10]
      (fun t => (t.wram, t.cpu.s)) = some ([(0x10, 0xCD), (0x11, 0xAB), (0x1FE, 0xCD), (0x1FF, 0xAB)], 0x01FD) := by decide

/-- R517. -/
theorem test_per :
    run (native 0x30 id) [0x62, 0xFD, 0xFF]
      (fun t => (t.wram, t.cpu.s)) = some ([(0x1FF, 0x80)], 0x01FD) := by decide

/-- R530. -/
theorem test_adc :
    run (native 0x20 fun b => { b with c := 0x7F }) [0x69, 0x01]
      (fun t => (t.cpu.c, nzc t, t.cpu.flag fV)) = some (0x80, (true, false, false), true) := by decide

/-- R532. -/
theorem test_adc_decimal :
    run (native 0x28 fun b => { b with c := 0x99 }) [0x69, 0x01]
      (fun t => (t.cpu.c, nzc t, t.cpu.flag fV)) = some (0x00, (false, true, true), false) := by decide

/-- R533. -/
theorem test_sbc :
    run (native 0x21 fun b => { b with c := 0x50 }) [0xE9, 0x30]
      (fun t => (t.cpu.c, t.cpu.flag fC, t.cpu.flag fV)) = some (0x20, true, false) := by decide

/-- R534. -/
theorem test_sbc_decimal :
    run (native 0x29 id) [0xE9, 0x01]
      (fun t => (t.cpu.c, t.cpu.flag fC, t.cpu.flag fN)) = some (0x99, false, true) := by decide

/-- R536. -/
theorem test_cmp :
    run (native 0x20 fun b => { b with c := 0x10 }) [0xC9, 0x20]
      (fun t => (t.cpu.c, nzc t)) = some (0x10, (true, false, false)) := by decide

/-- R537. -/
theorem test_cpx :
    run (native 0x20 fun b => { b with x := 0x1000 }) [0xE0, 0x00, 0x10]
      (fun t => nzc t) = some (false, true, true) := by decide

/-- R538. -/
theorem test_cpy :
    run (native 0x10 fun b => { b with y := 0x05 }) [0xC0, 0x06]
      (fun t => nzc t) = some (true, false, false) := by decide

/-- R539. -/
theorem test_and :
    run (native 0x20 fun b => { b with c := 0xF0 }) [0x29, 0x0F]
      (fun t => (t.cpu.c, t.cpu.flag fZ)) = some (0, true) := by decide

/-- R540. -/
theorem test_ora :
    run (native 0x20 fun b => { b with c := 0x01 }) [0x09, 0x80]
      (fun t => (t.cpu.c, t.cpu.flag fN)) = some (0x81, true) := by decide

/-- R541. -/
theorem test_eor :
    run (native 0x20 fun b => { b with c := 0xFF }) [0x49, 0xFF]
      (fun t => (t.cpu.c, t.cpu.flag fZ)) = some (0, true) := by decide

/-- R542. -/
theorem test_bit_memory :
    run (wramOf [(0x10, 0xC0)] (native 0x20 fun b => { b with c := 0x01 })) [0x24, 0x10]
      (fun t => t.cpu.p) = some 0xE2 := by decide

/-- R542. -/
theorem test_bit_immediate :
    run (native 0x20 fun b => { b with c := 0x01 }) [0x89, 0xC0]
      (fun t => t.cpu.p) = some 0x22 := by decide

/-- R543. -/
theorem test_tsb :
    run (wramOf [(0x10, 0xF0)] (native 0x20 fun b => { b with c := 0x0F })) [0x04, 0x10]
      (fun t => (t.wram, t.cpu.flag fZ)) = some ([(0x10, 0xFF)], true) := by decide

/-- R544. -/
theorem test_trb :
    run (wramOf [(0x10, 0xFF)] (native 0x20 fun b => { b with c := 0x0F })) [0x14, 0x10]
      (fun t => (t.wram, t.cpu.flag fZ)) = some ([(0x10, 0xF0)], false) := by decide

/-- R545. -/
theorem test_inc :
    run (native 0x21 fun b => { b with c := 0xFF }) [0x1A]
      (fun t => (t.cpu.c, t.cpu.flag fZ, t.cpu.flag fC)) = some (0, true, true) := by decide

/-- R546. -/
theorem test_dec :
    run (native 0x00 id) [0x3A]
      (fun t => (t.cpu.c, t.cpu.flag fN)) = some (0xFFFF, true) := by decide

/-- R547. -/
theorem test_inx :
    run (native 0x10 fun b => { b with x := 0xFF }) [0xE8]
      (fun t => (t.cpu.x, t.cpu.flag fZ)) = some (0, true) := by decide

/-- R548. -/
theorem test_iny :
    run (native 0x00 fun b => { b with y := 0x7FFF }) [0xC8]
      (fun t => (t.cpu.y, t.cpu.flag fN)) = some (0x8000, true) := by decide

/-- R549. -/
theorem test_dex :
    run (native 0x00 fun b => { b with x := 1 }) [0xCA]
      (fun t => (t.cpu.x, t.cpu.flag fZ)) = some (0, true) := by decide

/-- R550. -/
theorem test_dey :
    run (native 0x10 id) [0x88]
      (fun t => (t.cpu.y, t.cpu.flag fN)) = some (0xFF, true) := by decide

/-- R551. -/
theorem test_asl :
    run (native 0x20 fun b => { b with c := 0x81 }) [0x0A]
      (fun t => (t.cpu.c, t.cpu.flag fC, t.cpu.flag fN)) = some (0x02, true, false) := by decide

/-- R552. -/
theorem test_lsr :
    run (native 0x20 fun b => { b with c := 0x01 }) [0x4A]
      (fun t => (t.cpu.c, t.cpu.flag fC, t.cpu.flag fZ)) = some (0, true, true) := by decide

/-- R553. -/
theorem test_rol :
    run (native 0x21 fun b => { b with c := 0x80 }) [0x2A]
      (fun t => (t.cpu.c, t.cpu.flag fC)) = some (0x01, true) := by decide

/-- R554. -/
theorem test_ror :
    run (native 0x01 fun b => { b with c := 0x0001 }) [0x6A]
      (fun t => (t.cpu.c, t.cpu.flag fC, t.cpu.flag fN)) = some (0x8000, true, true) := by decide

/-- R581. -/
theorem test_bpl :
    run (native 0x30 id) [0x10, 0x02]
      (fun t => t.cpu.pc) = some 0x8004 := by decide

/-- R582. -/
theorem test_bmi :
    run (native 0x30 id) [0x30, 0x02]
      (fun t => t.cpu.pc) = some 0x8002 := by decide

/-- R583. -/
theorem test_bvc :
    run (native 0x30 id) [0x50, 0xFE]
      (fun t => t.cpu.pc) = some 0x8000 := by decide

/-- R584. -/
theorem test_bvs :
    run (native 0x70 id) [0x70, 0x80]
      (fun t => t.cpu.pc) = some 0x7F82 := by decide

/-- R585. -/
theorem test_bcc :
    run (native 0x31 id) [0x90, 0x10]
      (fun t => t.cpu.pc) = some 0x8002 := by decide

/-- R586. -/
theorem test_bcs :
    run (native 0x31 id) [0xB0, 0x10]
      (fun t => t.cpu.pc) = some 0x8012 := by decide

/-- R587. -/
theorem test_bne :
    run (native 0x30 fun b => { b with pc := 0x8010 }) [0xD0, 0xF8]
      (fun t => t.cpu.pc) = some 0x800A := by decide

/-- R588. -/
theorem test_beq_native :
    run (native 0x32 fun b => { b with pc := 0x80F0 }) [0xF0, 0x20]
      (fun t => (t.cpu.pc, t.cpu.cycles)) = some (0x8112, 3) := by decide

/-- R588. -/
theorem test_beq_emulation :
    run (emulation 0x02 fun b => { b with pc := 0x80F0 }) [0xF0, 0x20]
      (fun t => (t.cpu.pc, t.cpu.cycles)) = some (0x8112, 4) := by decide

/-- R589. -/
theorem test_bra :
    run (native 0x30 id) [0x80, 0xFE]
      (fun t => t.cpu.pc) = some 0x8000 := by decide

/-- R590. -/
theorem test_brl :
    run (native 0x30 id) [0x82, 0xFD, 0x7F]
      (fun t => (t.cpu.pc, t.cpu.pbr, t.cpu.cycles)) = some (0, 0, 4) := by decide

/-- BRL is a taken branch, here over a page: the cost listed for those facts is charged, and no other (R1070, R1090). -/
theorem test_brl_listed_cost :
    let key : CpuCostKey :=
      { op := 0x82, e := false, p := 0x30, dlNonzero := false, indexCrosses := false, taken := true, branchCrosses := true }
    let cost := fun k => run { native 0x30 id with cfg := { Config.default with cpuCosts := [(k, 9)] } } [0x82, 0xFD, 0x7F] (·.cpu.cycles)
    cost key = some 9 ∧ cost { key with taken := false } = some 4 ∧ cost { key with branchCrosses := false } = some 4 := by decide

/-- R591. -/
theorem test_jmp :
    run (native 0x30 id) [0x4C, 0x00, 0x90]
      (fun t => t.cpu.pc) = some 0x9000 := by decide

/-- R592. -/
theorem test_jmpInd :
    run (wramOf [(0xFF, 0x34), (0x100, 0x12)] (native 0x30 id)) [0x6C, 0xFF, 0x00]
      (fun t => t.cpu.pc) = some 0x1234 := by decide

/-- R593. -/
theorem test_jmpIndX :
    run (wramOf [(0x1003, 0xA0)] (native 0x30 fun b => { b with pbr := 0x80, x := 2 })) [0x7C, 0x00, 0x10]
      (fun t => (t.cpu.pc, t.cpu.pbr)) = some (0xA000, 0x80) := by decide

/-- R594. -/
theorem test_jml :
    run (native 0x30 id) [0x5C, 0x00, 0x80, 0xC0]
      (fun t => (t.cpu.pc, t.cpu.pbr)) = some (0x8000, 0xC0) := by decide

/-- R595. -/
theorem test_jmlInd :
    run (wramOf [(0x11, 0x80), (0x12, 0x01)] (native 0x30 id)) [0xDC, 0x10, 0x00]
      (fun t => (t.cpu.pc, t.cpu.pbr)) = some (0x8000, 0x01) := by decide

/-- R596. -/
theorem test_jsr :
    run (native 0x30 id) [0x20, 0x00, 0x90]
      (fun t => (t.wram, t.cpu.s, t.cpu.pc)) = some ([(0x1FE, 0x02), (0x1FF, 0x80)], 0x01FD, 0x9000) := by decide

/-- R597. -/
theorem test_jsrIndX :
    run (wramOf [(0x1001, 0xA0)] (native 0x30 id)) [0xFC, 0x00, 0x10]
      (fun t => (t.wram, t.cpu.pc)) = some ([(0x1FE, 0x02), (0x1FF, 0x80), (0x1001, 0xA0)], 0xA000) := by decide

/-- R598. -/
theorem test_jsl :
    run (native 0x30 fun b => { b with pbr := 0x80, s := 0x1FFF }) [0x22, 0x00, 0x90, 0x81]
      (fun t => (t.wram, t.cpu.s, t.cpu.pbr, t.cpu.pc)) = some ([(0x1FFD, 0x03), (0x1FFE, 0x80), (0x1FFF, 0x80)], 0x1FFC, 0x81, 0x9000) := by decide

/-- R599. -/
theorem test_rts :
    run (wramOf [(0x1FE, 0x02), (0x1FF, 0x80)] (native 0x30 fun b => { b with s := 0x01FD })) [0x60]
      (fun t => (t.cpu.pc, t.cpu.s)) = some (0x8003, 0x01FF) := by decide

/-- R600. -/
theorem test_rtl :
    run (wramOf [(0x1FFD, 0x03), (0x1FFE, 0x80), (0x1FFF, 0x80)] (native 0x30 fun b => { b with s := 0x1FFC })) [0x6B]
      (fun t => (t.cpu.pbr, t.cpu.pc, t.cpu.s)) = some (0x80, 0x8004, 0x1FFF) := by decide

/-- R601. -/
theorem test_rti :
    run (wramOf [(0x1FD, 0x04), (0x1FE, 0x02), (0x1FF, 0x80)] (emulation 0 fun b => { b with s := 0x01FC })) [0x40]
      (fun t => (t.cpu.p, t.cpu.pc, t.cpu.s)) = some (0x34, 0x8002, 0x01FF) := by decide

/-- R602. -/
theorem test_brk :
    run (native 0x34 id) [0x00, 0x00]
      (fun t => (t.wram, t.cpu.s, t.cpu.p, t.cpu.cycles)) = some ([(0x1FC, 0x34), (0x1FD, 0x02), (0x1FE, 0x80)], 0x01FB, 0x34, 8) := by decide

/-- R603, R807. -/
theorem test_cop :
    run (emulation 0x00 id) [0x02, 0x00]
      (fun t => (t.wram, t.cpu.s, t.cpu.p, t.cpu.cycles)) = some ([(0x1FD, 0x20), (0x1FE, 0x02), (0x1FF, 0x80)], 0x01FC, 0x34, 7) := by decide

/-- R621. -/
theorem test_clc :
    run (emulation 0x05 id) [0x18]
      (fun t => t.cpu.p) = some 0x34 := by decide

/-- R622. -/
theorem test_sec :
    run (emulation 0x04 id) [0x38]
      (fun t => t.cpu.p) = some 0x35 := by decide

/-- R623. -/
theorem test_cli :
    run (emulation 0x04 id) [0x58]
      (fun t => t.cpu.p) = some 0x30 := by decide

/-- R624. -/
theorem test_sei :
    run (emulation 0x00 id) [0x78]
      (fun t => t.cpu.p) = some 0x34 := by decide

/-- R625. -/
theorem test_cld :
    run (emulation 0x0C id) [0xD8]
      (fun t => t.cpu.p) = some 0x34 := by decide

/-- R626. -/
theorem test_sed :
    run (emulation 0x04 id) [0xF8]
      (fun t => t.cpu.p) = some 0x3C := by decide

/-- R627. -/
theorem test_clv :
    run (emulation 0x44 id) [0xB8]
      (fun t => t.cpu.p) = some 0x34 := by decide

/-- R628. -/
theorem test_rep :
    run (native 0x34 id) [0xC2, 0x30]
      (fun t => t.cpu.p) = some 0x04 := by decide

/-- R628. -/
theorem test_rep_emulation :
    run (emulation 0x04 id) [0xC2, 0x30]
      (fun t => t.cpu.p) = some 0x34 := by decide

/-- R629. -/
theorem test_sep :
    run (native 0x04 fun b => { b with x := 0x1234 }) [0xE2, 0x10]
      (fun t => (t.cpu.p, t.cpu.x)) = some (0x14, 0x0034) := by decide

/-- R630. -/
theorem test_xce_to_native :
    run (emulation 0x04 id) [0xFB]
      (fun t => (t.cpu.e, t.cpu.p)) = some (false, 0x35) := by decide

/-- R630. -/
theorem test_xce_to_emulation :
    run (native 0x01 fun b => { b with s := 0x1FF0, x := 0x1234 }) [0xFB]
      (fun t => (t.cpu.e, t.cpu.s, t.cpu.p, t.cpu.x)) = some (true, 0x01F0, 0x30, 0x34) := by decide

/-- R631. -/
theorem test_nop :
    run (emulation 0x04 id) [0xEA]
      (fun t => (t.cpu.pc, t.cpu.cycles)) = some (0x8001, 2) := by decide

/-- R632. -/
theorem test_wdm :
    run (emulation 0x04 id) [0x42, 0xFF]
      (fun t => (t.cpu.pc, t.cpu.cycles)) = some (0x8002, 2) := by decide

/-- R633. -/
theorem test_wai :
    run (emulation 0x04 id) [0xCB]
      (fun t => (t.cpu.pc, t.cpu.waiting)) = some (0x8001, true) := by decide

/-- R634. -/
theorem test_stp :
    run (emulation 0x04 id) [0xDB]
      (fun t => (t.cpu.pc, t.cpu.stopped)) = some (0x8001, true) := by decide

/-! ## One step of each audio instruction, from the examples of the rules cited -/

/-- R654. -/
theorem test_aMovA :
    arun (audio 0 id) [0xE8, 0x80]
      (fun u => (u.a, anzc u)) = some (0x80, (true, false, false)) := by decide

/-- R654. -/
theorem test_aMovX :
    arun (aramOf [(0x10, 0x80)] (audio 0 id)) [0xF8, 0x10]
      (fun u => (u.x, anzc u)) = some (0x80, (true, false, false)) := by decide

/-- R651, R654. -/
theorem test_aMovY :
    arun (aramOf [(0x114, 0x00)] (audio 0x20 fun u => { u with x := 4, y := 1 })) [0xFB, 0x10]
      (fun u => (u.y, anzc u)) = some (0x00, (false, true, false)) := by decide

/-- R655, R985. -/
theorem test_aMovStA :
    arun (audio 0 fun u => { u with a := 0x55 }) [0xC4, 0xF4]
      (fun u => (u.pout.q0, aramAt u 0xF4)) = some (0x55, 0x55) := by decide

/-- R651, R655. -/
theorem test_aMovStX :
    arun (audio 0x20 fun u => { u with x := 0x42, y := 0x02 }) [0xD9, 0xFF]
      (fun u => aramAt u 0x101) = some 0x42 := by decide

/-- R655. -/
theorem test_aMovStY :
    arun (audio 0 fun u => { u with y := 0x42 }) [0xCC, 0x34, 0x12]
      (fun u => aramAt u 0x1234) = some 0x42 := by decide

/-- R656. -/
theorem test_aMovXA :
    arun (audio 0 fun u => { u with a := 0x80 }) [0x5D]
      (fun u => (u.x, anzc u)) = some (0x80, (true, false, false)) := by decide

/-- R656. -/
theorem test_aMovAX :
    arun (audio 0x80 fun u => { u with a := 0x80 }) [0x7D]
      (fun u => (u.a, anzc u)) = some (0, (false, true, false)) := by decide

/-- R656. -/
theorem test_aMovYA :
    arun (audio 0 fun u => { u with a := 0x80 }) [0xFD]
      (fun u => (u.y, anzc u)) = some (0x80, (true, false, false)) := by decide

/-- R656. -/
theorem test_aMovAY :
    arun (audio 0 fun u => { u with y := 0x01 }) [0xDD]
      (fun u => (u.a, anzc u)) = some (0x01, (false, false, false)) := by decide

/-- R656. -/
theorem test_aMovXSp :
    arun (audio 0 id) [0x9D]
      (fun u => (u.x, anzc u)) = some (0xEF, (true, false, false)) := by decide

/-- R656. -/
theorem test_aMovSpX :
    arun (audio 0 fun u => { u with x := 0x80 }) [0xBD]
      (fun u => (u.sp, u.psw)) = some (0x80, 0) := by decide

/-- R657. -/
theorem test_aMovDD :
    arun (aramOf [(0x10, 0x42)] (audio 0 id)) [0xFA, 0x10, 0x20]
      (fun u => aramAt u 0x20) = some 0x42 := by decide

/-- R312, R657. -/
theorem test_aMovDI :
    arun (audio 0 id) [0x8F, 0x42, 0x20]
      (fun u => aramAt u 0x20) = some 0x42 := by decide

/-- R658. -/
theorem test_aMovIncA :
    arun (audio 0 fun u => { u with a := 0x42, x := 0x10 }) [0xAF]
      (fun u => (aramAt u 0x10, u.x, u.psw)) = some (0x42, 0x11, 0) := by decide

/-- R658. -/
theorem test_aMovAInc :
    arun (audio 0x20 fun u => { u with a := 1, x := 0xFF }) [0xBF]
      (fun u => (u.a, u.psw.getLsbD aZ, u.x)) = some (0, true, 0) := by decide

/-- R660. -/
theorem test_aAdc :
    arun (audio 0 fun u => { u with a := 0x7F }) [0x88, 0x01]
      (fun u => (u.a, u.psw)) = some (0x80, 0xC8) := by decide

/-- R661. -/
theorem test_aSbc :
    arun (audio 0x01 fun u => { u with a := 0x10 }) [0xA8, 0x01]
      (fun u => (u.a, u.psw.getLsbD aC, u.psw.getLsbD aH)) = some (0x0F, true, false) := by decide

/-- R312, R662. -/
theorem test_aCmp :
    arun (aramOf [(0x20, 0x02), (0x30, 0x01)] (audio 0 id)) [0x69, 0x20, 0x30]
      (fun u => (aramAt u 0x30, anzc u)) = some (0x01, (true, false, false)) := by decide

/-- R662. -/
theorem test_aCmpX :
    arun (audio 0 fun u => { u with x := 5 }) [0xC8, 0x05]
      (fun u => anzc u) = some (false, true, true) := by decide

/-- R662. -/
theorem test_aCmpY :
    arun (audio 0 fun u => { u with y := 5 }) [0xAD, 0x06]
      (fun u => anzc u) = some (true, false, false) := by decide

/-- R663. -/
theorem test_aAnd :
    arun (audio 0 fun u => { u with a := 0xF0 }) [0x28, 0x3C]
      (fun u => u.a) = some 0x30 := by decide

/-- R664. -/
theorem test_aOr :
    arun (aramOf [(0x30, 0x01)] (audio 0 id)) [0x18, 0x80, 0x30]
      (fun u => (aramAt u 0x30, u.psw.getLsbD aN)) = some (0x81, true) := by decide

/-- R665. -/
theorem test_aEor :
    arun (audio 0 fun u => { u with a := 0xAA }) [0x48, 0xAA]
      (fun u => (u.a, u.psw.getLsbD aZ)) = some (0, true) := by decide

/-- R666. -/
theorem test_aInc :
    arun (audio 0 fun u => { u with y := 0xFF }) [0xFC]
      (fun u => (u.y, u.psw.getLsbD aZ)) = some (0, true) := by decide

/-- R667. -/
theorem test_aDec :
    arun (audio 0 id) [0x1D]
      (fun u => (u.x, u.psw.getLsbD aN)) = some (0xFF, true) := by decide

/-- R668. -/
theorem test_aAsl :
    arun (audio 0 fun u => { u with a := 0x81 }) [0x1C]
      (fun u => (u.a, u.psw.getLsbD aC)) = some (0x02, true) := by decide

/-- R669. -/
theorem test_aLsr :
    arun (audio 0 fun u => { u with a := 0x01 }) [0x5C]
      (fun u => (u.a, anzc u)) = some (0, (false, true, true)) := by decide

/-- R670. -/
theorem test_aRol :
    arun (audio 0 fun u => { u with a := 0x80 }) [0x3C]
      (fun u => (u.a, anzc u)) = some (0, (false, true, true)) := by decide

/-- R671. -/
theorem test_aRor :
    arun (audio 0x01 fun u => { u with a := 0x01 }) [0x7C]
      (fun u => (u.a, anzc u)) = some (0x80, (true, false, true)) := by decide

/-- R672. -/
theorem test_aXcn :
    arun (audio 0 fun u => { u with a := 0x12 }) [0x9F]
      (fun u => u.a) = some 0x21 := by decide

/-- R673. -/
theorem test_aMovwLd :
    arun (aramOf [(0x100, 0x12), (0x1FF, 0x34)] (audio 0x20 id)) [0xBA, 0xFF]
      (fun u => (u.a, u.y)) = some (0x34, 0x12) := by decide

/-- R673. -/
theorem test_aMovwSt :
    arun (audio 0 fun u => { u with a := 0x34, y := 0x12 }) [0xDA, 0x10]
      (fun u => (aramAt u 0x10, aramAt u 0x11)) = some (0x34, 0x12) := by decide

/-- R674. -/
theorem test_aIncw :
    arun (aramOf [(0x10, 0xFF)] (audio 0 id)) [0x3A, 0x10]
      (fun u => (aramAt u 0x10, aramAt u 0x11, anzc u)) = some (0x00, 0x01, (false, false, false)) := by decide

/-- R675. -/
theorem test_aDecw :
    arun (audio 0 id) [0x1A, 0x10]
      (fun u => (aramAt u 0x10, aramAt u 0x11, u.psw.getLsbD aN)) = some (0xFF, 0xFF, true) := by decide

/-- R676. -/
theorem test_aAddw :
    arun (aramOf [(0x10, 0x01)] (audio 0 fun u => { u with y := 0x0F, a := 0xFF })) [0x7A, 0x10]
      (fun u => (u.y, u.a, u.psw)) = some (0x10, 0x00, 0x08) := by decide

/-- R677. -/
theorem test_aSubw :
    arun (aramOf [(0x10, 0x01)] (audio 0 id)) [0x9A, 0x10]
      (fun u => (u.y, u.a, u.psw.getLsbD aC, u.psw.getLsbD aN)) = some (0xFF, 0xFF, false, true) := by decide

/-- R678. -/
theorem test_aCmpw :
    arun (aramOf [(0x10, 0x34), (0x11, 0x12)] (audio 0 fun u => { u with y := 0x12, a := 0x34 })) [0x5A, 0x10]
      (fun u => anzc u) = some (false, true, true) := by decide

/-- R679. -/
theorem test_aMul :
    arun (audio 0 fun u => { u with y := 0x10, a := 0x10 }) [0xCF]
      (fun u => (u.y, u.a, u.psw.getLsbD aZ)) = some (0x01, 0x00, false) := by decide

/-- R680. -/
theorem test_aDiv :
    arun (audio 0 fun u => { u with a := 100, x := 7 }) [0x9E]
      (fun u => (u.a, u.y, u.psw.getLsbD aV, u.psw.getLsbD aZ)) = some (14, 2, false, false) := by decide

/-- R680. -/
theorem test_aDiv_other_branch :
    arun (audio 0 fun u => { u with y := 0x10, x := 2 }) [0x9E]
      (fun u => (u.a, u.y, u.psw.getLsbD aV)) = some (0xF3, 0x1A, true) := by decide

/-- R681. -/
theorem test_aDaa :
    arun (audio 0x08 fun u => { u with a := 0x41 }) [0xDF]
      (fun u => u.a) = some 0x47 := by decide

/-- R682. -/
theorem test_aDas :
    arun (audio 0x01 fun u => { u with a := 0x4F }) [0xBE]
      (fun u => u.a) = some 0x49 := by decide

/-- R721. -/
theorem test_aBra :
    arun (audio 0 id) [0x2F, 0xFE]
      (fun u => u.pc) = some 0x0200 := by decide

/-- R722. -/
theorem test_aBeq :
    arun (audio 0x02 id) [0xF0, 0x10]
      (fun u => u.pc) = some 0x0212 := by decide

/-- R723. -/
theorem test_aBne :
    arun (audio 0x02 id) [0xD0, 0x10]
      (fun u => u.pc) = some 0x0202 := by decide

/-- R724. -/
theorem test_aBcs :
    arun (audio 0x01 id) [0xB0, 0xF0]
      (fun u => u.pc) = some 0x01F2 := by decide

/-- R725. -/
theorem test_aBcc :
    arun (audio 0 id) [0x90, 0x02]
      (fun u => u.pc) = some 0x0204 := by decide

/-- R726. -/
theorem test_aBvs :
    arun (audio 0 id) [0x70, 0x10]
      (fun u => u.pc) = some 0x0202 := by decide

/-- R727. -/
theorem test_aBvc :
    arun (audio 0 id) [0x50, 0x10]
      (fun u => u.pc) = some 0x0212 := by decide

/-- R728. -/
theorem test_aBmi :
    arun (audio 0x80 id) [0x30, 0x80]
      (fun u => u.pc) = some 0x0182 := by decide

/-- R729. -/
theorem test_aBpl :
    arun (audio 0x80 id) [0x10, 0x80]
      (fun u => u.pc) = some 0x0202 := by decide

/-- R730. -/
theorem test_aBbs :
    arun (aramOf [(0x12, 0x04)] (audio 0 id)) [0x43, 0x12, 0x05]
      (fun u => u.pc) = some 0x0208 := by decide

/-- R731. -/
theorem test_aBbc :
    arun (aramOf [(0x12, 0x04)] (audio 0 id)) [0x13, 0x12, 0x05]
      (fun u => u.pc) = some 0x0208 := by decide

/-- R732. -/
theorem test_aCbne :
    arun (aramOf [(0x10, 0xCC)] (audio 0 fun u => { u with a := 0xCC })) [0x2E, 0x10, 0x05]
      (fun u => (u.pc, u.acycles)) = some (0x0203, 5) := by decide

/-- R732. -/
theorem test_aCbneX :
    arun (audio 0 fun u => { u with a := 0xCC, x := 1 }) [0xDE, 0x10, 0x05]
      (fun u => u.pc) = some 0x0208 := by decide

/-- R733. -/
theorem test_aDbnz :
    arun (audio 0 id) [0x6E, 0x10, 0x05]
      (fun u => (aramAt u 0x10, u.pc)) = some (0xFF, 0x0208) := by decide

/-- R733. -/
theorem test_aDbnzY :
    arun (audio 0 fun u => { u with y := 1 }) [0xFE, 0xFE]
      (fun u => (u.y, u.pc)) = some (0, 0x0202) := by decide

/-- R734. -/
theorem test_aJmp :
    arun (audio 0 id) [0x5F, 0xC0, 0xFF]
      (fun u => u.pc) = some 0xFFC0 := by decide

/-- R734. -/
theorem test_aJmpInd :
    arun (aramOf [(0x302, 0x34), (0x303, 0x12)] (audio 0 fun u => { u with x := 2 })) [0x1F, 0x00, 0x03]
      (fun u => u.pc) = some 0x1234 := by decide

/-- R735. -/
theorem test_aCall :
    arun (audio 0 fun u => { u with pc := 0x0300 }) [0x3F, 0x00, 0x04]
      (fun u => (aramAt u 0x1EF, aramAt u 0x1EE, u.sp, u.pc)) = some (0x03, 0x03, 0xED, 0x0400) := by decide

/-- R736. -/
theorem test_aPcall :
    arun (audio 0 id) [0x4F, 0x10]
      (fun u => u.pc) = some 0xFF10 := by decide

/-- R737, R738, R990. -/
theorem test_aTcall :
    arun (audio 0 id) [0x01]
      (fun u => u.pc) = some 0xF5E4 := by decide

/-- R738. -/
theorem test_aBrk :
    arun (audio 0x04 id) [0x0F]
      (fun u => (u.pc, u.psw, aramAt u 0x1ED)) = some (0xF5E4, 0x10, 0x04) := by decide

/-- R739. -/
theorem test_aRet :
    arun (aramOf [(0x1EE, 0x03), (0x1EF, 0x03)] (audio 0 fun u => { u with sp := 0xED })) [0x6F]
      (fun u => (u.pc, u.sp)) = some (0x0303, 0xEF) := by decide

/-- R740. -/
theorem test_aReti :
    arun (aramOf [(0x1ED, 0x02), (0x1EE, 0x01), (0x1EF, 0x03)] (audio 0x10 fun u => { u with sp := 0xEC })) [0x7F]
      (fun u => (u.psw, u.pc, u.sp)) = some (0x02, 0x0301, 0xEF) := by decide

/-- R741. -/
theorem test_aPush :
    arun (audio 0 fun u => { u with a := 0x12 }) [0x2D]
      (fun u => (aramAt u 0x1EF, u.sp)) = some (0x12, 0xEE) := by decide

/-- R742. -/
theorem test_aPop :
    arun (aramOf [(0x1EF, 0x12)] (audio 0 fun u => { u with sp := 0xEE })) [0xCE]
      (fun u => (u.x, u.sp)) = some (0x12, 0xEF) := by decide

/-- R743. -/
theorem test_aSet1 :
    arun (audio 0 id) [0xE2, 0x10]
      (fun u => aramAt u 0x10) = some 0x80 := by decide

/-- R744. -/
theorem test_aClr1 :
    arun (aramOf [(0x10, 0xFF)] (audio 0 id)) [0x12, 0x10]
      (fun u => aramAt u 0x10) = some 0xFE := by decide

/-- R745. -/
theorem test_aTset1 :
    arun (aramOf [(0x400, 0x0F)] (audio 0 fun u => { u with a := 0x0F })) [0x0E, 0x00, 0x04]
      (fun u => (aramAt u 0x400, u.psw.getLsbD aZ)) = some (0x0F, true) := by decide

/-- R746. -/
theorem test_aTclr1 :
    arun (aramOf [(0x400, 0xFF)] (audio 0x80 fun u => { u with a := 0x0F })) [0x4E, 0x00, 0x04]
      (fun u => (aramAt u 0x400, u.psw.getLsbD aN)) = some (0xF0, false) := by decide

/-- R747. -/
theorem test_aAnd1 :
    arun (audio 0x01 id) [0x4A, 0x10, 0x20]
      (fun u => u.psw) = some 0x00 := by decide

/-- R748. -/
theorem test_aOr1 :
    arun (audio 0 id) [0x2A, 0x10, 0x20]
      (fun u => u.psw) = some 0x01 := by decide

/-- R749. -/
theorem test_aEor1 :
    arun (aramOf [(0x10, 0x02)] (audio 0x01 id)) [0x8A, 0x10, 0x20]
      (fun u => u.psw) = some 0x00 := by decide

/-- R750. -/
theorem test_aNot1 :
    arun (audio 0 id) [0xEA, 0x10, 0x20]
      (fun u => aramAt u 0x10) = some 0x02 := by decide

/-- R751. -/
theorem test_aMov1Ld :
    arun (aramOf [(0x10, 0x02)] (audio 0 id)) [0xAA, 0x10, 0x20]
      (fun u => u.psw) = some 0x01 := by decide

/-- R751. -/
theorem test_aMov1St :
    arun (audio 0x01 id) [0xCA, 0x00, 0xE0]
      (fun u => aramAt u 0x00) = some 0x80 := by decide

/-- R752. -/
theorem test_aClrc :
    arun (audio 0x01 id) [0x60]
      (fun u => u.psw) = some 0x00 := by decide

/-- R753. -/
theorem test_aSetc :
    arun (audio 0 id) [0x80]
      (fun u => u.psw) = some 0x01 := by decide

/-- R754. -/
theorem test_aNotc :
    arun (audio 0 id) [0xED]
      (fun u => u.psw) = some 0x01 := by decide

/-- R755. -/
theorem test_aClrv :
    arun (audio 0x48 id) [0xE0]
      (fun u => u.psw) = some 0x00 := by decide

/-- R756. -/
theorem test_aClrp :
    arun (audio 0x20 id) [0x20]
      (fun u => u.psw) = some 0x00 := by decide

/-- R757. -/
theorem test_aSetp :
    arun (audio 0 id) [0x40]
      (fun u => u.psw) = some 0x20 := by decide

/-- R758. -/
theorem test_aEi :
    arun (audio 0 id) [0xA0]
      (fun u => u.psw) = some 0x04 := by decide

/-- R759. -/
theorem test_aDi :
    arun (audio 0x04 id) [0xC0]
      (fun u => u.psw) = some 0x00 := by decide

/-- R760. -/
theorem test_aNop :
    arun (audio 0 id) [0x00]
      (fun u => (u.pc, u.acycles)) = some (0x0201, 2) := by decide

/-- R761. -/
theorem test_aSleep :
    arun (audio 0 id) [0xEF]
      (fun u => (u.pc, u.halted)) = some (0x0201, true) := by decide

/-- R762. -/
theorem test_aStop :
    arun (audio 0 id) [0xFF]
      (fun u => (u.pc, u.halted)) = some (0x0201, true) := by decide

/-! ## Witnesses: a state and operands that meet the hypotheses of each statement together -/

/-- A running machine with NOP at the fetch address. -/
def nopState : State := State.reset.withFetchWord 8 0xEA

/-- In the last lines before the frame wraps: nothing is rendered. -/
def inVblank (n : Nat) (s : State) : State := (s.onSched fun q => { q with vline := n }).onIo fun r => { r with vblank := true }

/-- The state where a channel-0 transfer of `n` bytes of pattern `pat` from ROM to the WRAM port is set up. -/
def dmaState (pat n : Byte) : State := State.reset.onDma fun _ => Cells.writeList 0 0 [pat, 0x80, 0x00, 0x80, 0x00, n] []

theorem witness_round_trip :
    (Instr.lda (.imm (.b16 1))).wf = true ∧ (Instr.lda (.imm (.b16 1))).isAudio = false ∧
      (Instr.lda (.imm (.b16 1))).fits false true = true ∧ (Instr.aAdc .xy).wf = true ∧ (Instr.aAdc .xy).isAudio = true := by
  decide

theorem nopState_inv : nopState.Inv :=
  ⟨⟨by decide, by decide⟩,
    { memory := by decide, oamptr := by decide, line := by decide +kernel, rows := by decide, vline := by decide, vblank := by decide
      rdnmi := by decide, irq := by decide, queue := by decide, fresh := by decide, sentinel := by decide },
    ⟨⟨.hblank, 1096, 0⟩, by decide⟩⟩

theorem witness_invariant : ∃ s t, s.Inv ∧ step s = .next t := ⟨nopState, _, nopState_inv, rfl⟩

theorem witness_no_due_event : ∃ s t, s.Inv ∧ step s = .next t ∧ t.sched.queue ≠ [] :=
  ⟨nopState, _, nopState_inv, rfl, by decide⟩

theorem witness_reset :
    State.reset.byte? 0x00FFFC = some 0 ∧ State.reset.byte? 0x00FFFD = some 0 ∧ State.reset.cfg.resetScope = .asBuilt ∧
      (powerOn { Config.default with resetScope := .full }).cfg.resetScope = .full := by decide

theorem witness_step_decoded :
    nopState.fatal = none ∧ nopState.resetDone = true ∧ nopState.cpu.stopped = false ∧ nopState.cpu.waiting = false ∧
      nopState.code? nopState.cpu.pbr 1 nopState.cpu.pc = some [0xEA] ∧ 0xEA ∉ nopState.cfg.unimplOps ∧
      decodeMain (nopState.cpu.flag fM) (nopState.cpu.flag fX) [0xEA] = some (.nop, []) := by decide

/-- The clause of the next state, with no event due, and the clause of the fault: LDA of an unmapped address. -/
theorem witness_step_outcomes :
    (∃ u, exec .nop (nopState.onCpu fun b => { b with pc := b.pc + BitVec.ofNat 16 1 }) = .next u ∧
      ∀ e ∈ u.sched.queue, u.sched.master + u.cpu.pending * u.cfg.masterPerCycle < e.ts) ∧
    (∃ f, exec (.lda (.mem (.long 0x002000))) (nopState.onCpu fun b => { b with pc := b.pc + BitVec.ofNat 16 4 }) = .fault f) :=
  ⟨⟨_, rfl, by decide⟩, ⟨_, rfl⟩⟩

theorem witness_fatal :
    (nopState.setFatal (.sentinelFired 0)).fatal = some (.sentinelFired 0) ∧
    (∃ f t, step (State.reset.withFetchWord 32 0x002000AF) = .fault (.fatal f t)) ∧
    (powerOn Config.default).fatal = none ∧ (powerOn Config.default).resetDone = false :=
  ⟨rfl, ⟨_, _, rfl⟩, rfl, rfl⟩

theorem witness_unimplemented :
    let s : State := { nopState with cfg := { nopState.cfg with unimplOps := [0xEA] } }
    s.fatal = none ∧ s.resetDone = true ∧ s.cpu.stopped = false ∧ s.cpu.waiting = false ∧
      s.byte? (mkAddr s.cpu.pbr s.cpu.pc) = some 0xEA ∧ (0xEA : Byte) ∈ s.cfg.unimplOps := by decide

/-- The fetch from a device. -/
theorem witness_unimplemented_device :
    ∃ t, (read8 (mkAddr nopAtPort.cpu.pbr nopAtPort.cpu.pc)).run nopAtPort = .ok 0xEA t := ⟨_, rfl⟩

theorem witness_stopped :
    ∃ t, step (inVblank 230 (nopState.onCpu fun b => { b with stopped := true })) = .next t := ⟨_, rfl⟩

theorem witness_waiting :
    (∃ t, step (inVblank 230 (nopState.onCpu fun b => { b with waiting := true })) = .next t) ∧
      nopState.sched.queue.head? = some ⟨.hblank, 1096, 0⟩ := ⟨⟨_, rfl⟩, by decide⟩

theorem witness_time :
    (∀ e ∈ nopState.cfg.cpuCosts, 2 ≤ e.2) ∧
      ∃ t, step nopState = .next t ∧ nopState.cpu.stopped = false ∧ nopState.cpu.waiting = false := ⟨by decide, _, rfl, by decide⟩

/-- Waiting in the HBlank of line 223, whose EOL completes the frame. -/
def beforeVblank (stopped : Bool) : State :=
  ((State.reset.onCpu fun b => { b with waiting := true, stopped := stopped }).onIo fun r => { r with hblank := true }).onSched
    fun q => { q with vline := 223, queue := [⟨.eol, 1364, 0⟩, ⟨.sentinel, 2 ^ 64 - 1, 1⟩] }

/-- The conditions under which a frame ends, and frames that end: `Ok` and `Halted`. -/
theorem witness_frame :
    nopState.Inv ∧ 1 ≤ nopState.cfg.masterPerCycle ∧ (∀ e ∈ nopState.cfg.cpuCosts, 1 ≤ e.2) ∧
      (∃ t, FrameReturns (beforeVblank false) (.ok t)) ∧ (∃ t, FrameReturns (beforeVblank true) (.halted t)) :=
  ⟨nopState_inv, by decide, by decide, ⟨_, 1, rfl⟩, ⟨_, 1, rfl⟩⟩

/-! ### Interrupts -/

theorem ok_of_native (p : Byte) (f : Cpu → Cpu) (h : (native p f).cpu.flag fX = true → hi (native p f).cpu.x = 0 ∧ hi (native p f).cpu.y = 0)
    (e : (native p f).cpu.e = false) : (native p f).cpu.Ok := ⟨h, fun h' => by rw [e] at h'; cases h'⟩

theorem ok_emulation : (emulation 0x04 id).cpu.Ok := ⟨by decide, by decide⟩

/-- Native mode, every kind: the frame can be pushed and the vector is mapped. -/
theorem witness_interrupt_native :
    (native 0x34 id).cpu.Ok ∧ (native 0x34 id).cpu.e = false ∧
    (native 0x34 id).cfg.cpuCosts = [] ∧ ∃ u, (((native 0x34 id).push8? 0).bind (State.push16? 0x8000)).bind (State.push8? 0x34) = some u ∧
      u.word? (.bank 0 0xFFE4) .w16 = some 0 ∧ u.word? (.bank 0 0xFFE6) .w16 = some 0 ∧ u.word? (.bank 0 0xFFE8) .w16 = some 0 ∧
      u.word? (.bank 0 0xFFEA) .w16 = some 0 ∧ u.word? (.bank 0 0xFFEE) .w16 = some 0 :=
  ⟨ok_of_native _ _ (by decide) rfl, rfl, rfl, _, rfl, rfl, rfl, rfl, rfl, rfl⟩

/-- Emulation mode, every kind, BRK with its own status byte, and the return address at PC. -/
theorem witness_interrupt_emulation :
    (emulation 0x04 id).cpu.e = true ∧ (emulation 0x04 id).cpu.pc = 0x8000 ∧
    ∃ u w, ((emulation 0x04 id).push16? 0x8000).bind (State.push8? 0x24) = some u ∧
      ((emulation 0x04 id).push16? 0x8000).bind (State.push8? 0x34) = some w ∧
      u.word? (.bank 0 0xFFF4) .w16 = some 0 ∧ u.word? (.bank 0 0xFFF8) .w16 = some 0 ∧ u.word? (.bank 0 0xFFFA) .w16 = some 0 ∧
      u.word? (.bank 0 0xFFFE) .w16 = some 0 ∧ w.word? (.bank 0 0xFFFE) .w16 = some 0 :=
  ⟨rfl, rfl, _, _, rfl, rfl, rfl, rfl, rfl, rfl, rfl⟩

theorem witness_nmi :
    ((native 0x34 id).onCpu fun b => { b with stopped := true }).cpu.stopped = true ∧
    ∃ u, (interrupt .nmi 0x8000).run (native 0x34 id) = .ok () u ∧ (native 0x34 id).cpu.stopped = false ∧
      (native 0x34 id).cpu.pc = 0x8000 := ⟨rfl, _, rfl, rfl, rfl⟩

/-- One line number for each clause of the two line events, at the edges 222, 223, 224 and 261, and both kinds of mode. -/
theorem witness_lines :
    (inVblank 224 State.reset).sched.vline = 224 ∧ State.reset.sched.vline = 0 ∧ State.reset.ppu.mode ∈ [0#3, 1#3, 3#3] ∧
      (State.reset.onPpu fun u => { u with mode := 2 }).ppu.mode ∉ [0#3, 1#3, 3#3] ∧
      (inVblank 222 State.reset).sched.vline + 1 ≠ 224 ∧ (inVblank 222 State.reset).sched.vline + 1 ≠ 262 ∧
      (inVblank 223 State.reset).sched.vline + 1 = 224 ∧ State.reset.io.nmiEn = false ∧
      (inVblank 261 State.reset).sched.vline + 1 = 262 := by decide

/-- A line of each implemented mode can be rendered, its memory in canonical form, both buffers. -/
theorem witness_line_drawn :
    Memory.wf State.reset = true ∧ State.reset.sched.vline < 224 ∧ (State.reset.onPpu fun u => { u with mode := 1, wbuf := true }).ppu.mode ∈
      [0#3, 1#3, 3#3] ∧ Memory.wf (State.reset.onPpu fun u => { u with mode := 3 }) = true := by decide

theorem witness_line_nmi :
    let s := (State.reset.onIo fun r => { r with nmiEn := true }).onSched fun q => { q with vline := 223 }
    s.io.nmiEn = true ∧ ∃ t,
      fireNmi.run ((s.onIo fun r => { r with hblank := false, vblank := true, rdnmiFlag := true }).onSched fun q =>
        { q with vline := 224, frameComplete := true }) = .ok () t := ⟨rfl, _, rfl⟩

theorem witness_rti :
    (∃ s1 s2, (emulation 0x04 id).pull8? = some (0, s1) ∧ (s1.onCpu (·.withP 0)).pull16? = some (0, s2)) ∧
    (∃ s1 s2 s3, (native 0x34 id).pull8? = some (0, s1) ∧ (s1.onCpu (·.withP 0)).pull16? = some (0, s2) ∧
      s2.pull8? = some (0, s3)) := ⟨⟨_, _, rfl, rfl⟩, ⟨_, _, _, rfl, rfl, rfl⟩⟩

/-- The stack pointer at both ends of the range of native mode, and emulation mode. -/
theorem witness_rti_entry :
    (native 0x34 fun b => { b with s := 3 }).cpu.Ok ∧ Memory.wf (native 0x34 fun b => { b with s := 3 }) = true ∧
    (∃ u, (interrupt .nmi 0x8000).run (native 0x34 fun b => { b with s := 3 }) = .ok () u) ∧
    (∃ u, (interrupt .cop 0x8000).run (native 0x34 fun b => { b with s := 0x1FFF }) = .ok () u) ∧
    (emulation 0x04 id).cpu.Ok ∧ Memory.wf (emulation 0x04 id) = true ∧
    (∃ u, (interrupt .brk 0x8000).run (emulation 0x04 id) = .ok () u) :=
  ⟨ok_of_native _ _ (by decide) rfl, by decide, ⟨_, rfl⟩, ⟨_, rfl⟩, ok_emulation, by decide, ⟨_, rfl⟩⟩

/-! ### The bus -/

/-- The pointers of the indirect forms, unwrapped and wrapped in the page of emulation mode. -/
theorem witness_pointers :
    (native 0x34 id).word? (.bank 0 (0 + zext 0xFF)) .w16 = some 0 ∧ (emulation 0 id).word? (.page 0 0xFF) .w16 = some 0 ∧
      (native 0x34 id).far? (.bank 0 (0 + zext 0xFF)) = some 0 ∧ (native 0x34 id).word? (.bank 0 (0x01FF + zext 0x10)) .w16 = some 0 := by
  decide

theorem witness_store :
    Memory.wf State.reset = true ∧ State.reset.writable (.lin 0x7FFFFF) .w8 = true ∧
      State.reset.writable (.lin 0x7EFFFF) .w16 = true ∧ State.reset.writable (.bank 0 0x1FFE) .w16 = true := by decide

/-- Banks and offsets at the edges of the map's rows. -/
theorem witness_map_lorom :
    rpage Config.default 0x7D8000 = some (.rom, 0x3E8000 % 0x8000) ∧ rpage Config.default 0xFFFFFF = some (.rom, 0x3FFFFF % 0x8000) ∧
      rpage Config.default 0x700000 = none ∧ rpage Config.default 0x6F7FFF = none ∧ rpage Config.default 0x3F7FFF = none ∧
      rpage { Config.default with sramSize := 0x2000 } 0xFF7FFF = some (.sram, 0x1FFF) := by decide

theorem witness_map_hirom :
    let cfg := { Config.default with mapper := .hiRom, romSize := 0x10000, sramSize := 0x2000 }
    rpage cfg 0x7DFFFF = some (.rom, 0xFFFF) ∧ rpage cfg 0xC00000 = some (.rom, 0) ∧ rpage cfg 0x3F8000 = some (.rom, 0x8000) ∧
      rpage cfg 0x1F6000 = none ∧ rpage cfg 0x206000 = some (.sram, 0) ∧ rpage cfg 0xBF7FFF = some (.sram, 0x1FFF) := by decide

/-- One offset for each refused range, at its edges, and a ROM address. -/
theorem witness_access_faults :
    rpage Config.default 0x006000 = none ∧ rpage Config.default 0x400000 = none ∧
      rpage Config.default 0x008000 = some (.rom, 0) ∧
      ([(0x2000 : Word), 0x20FF, 0x2138, 0x213F, 0x2184, 0x4015, 0x4018, 0x41FF, 0x420E, 0x420F, 0x4220, 0x42FF, 0x430C, 0x437F,
        0x4380, 0x5FFF].all fun o => (rpage Config.default (mkAddr 0xBF o)).isNone) = true := by decide

theorem witness_bus :
    (∃ t, (read8 0x7E0000).run State.reset = .ok 0 t) ∧ (∃ t, (write8 0x002180 1).run State.reset = .ok () t) :=
  ⟨⟨_, rfl⟩, ⟨_, rfl⟩⟩

/-- The banks of the registers at their edges, and both values of the conditions of the clauses. -/
theorem witness_registers :
    (0x00 : Byte).toNat ≤ 0x3F ∧ (0x80 ≤ (0xBF : Byte).toNat ∧ (0xBF : Byte).toNat ≤ 0xBF) ∧ Memory.wf State.reset = true ∧
      (State.reset.onPpu fun u => { u with oamptr := 543 }).ppu.oamptr.toNat = 543 ∧ State.reset.ppu.cglatchFull = false ∧
      (State.reset.onPpu fun u => { u with cglatchFull := true }).ppu.cglatchFull = true ∧ State.reset.ppu.oamaddr.toNat < 256 ∧
      ¬(0x100 : BitVec 9).toNat < 256 := by decide

theorem witness_dma_count :
    ((dmaChannel (dmaState 1 3) 0).count.toNat) % (dmaPattern (dmaChannel (dmaState 1 3) 0).pat).length ≠ 0 := by decide

theorem witness_dma_transfer : Memory.wf (dmaState 0 4) = true ∧ ∃ t, (runDma 0).run (dmaState 0 4) = .ok () t :=
  ⟨by decide, _, rfl⟩

theorem witness_dma_rom :
    let ch := dmaChannel (dmaState 0 4) 0
    Memory.wf (dmaState 0 4) = true ∧ ch.count = 4 ∧ ch.dir = false ∧ ch.pat = 0 ∧ ch.astep = 0 ∧ ch.bbad = 0x80 ∧
      ∀ k, k < 4 → rpage Config.default (mkAddr ch.abank (ch.aaddr + BitVec.ofNat 16 k)) = some (.rom, k) := by decide

/-- The catch-up with nothing to run, with a halted audio CPU, and with instructions to run. -/
theorem witness_ports :
    (∃ u, catchUp.run State.reset = .ok () u) ∧
    ((State.reset.onApu fun u => { u with halted := true }).onSched fun q => { q with master := 100 }).apu.halted = true ∧
    (100 - 0) * State.reset.cfg.apuNum / State.reset.cfg.apuDen = 4 ∧ 0x2140 ≤ (0x217F : Word).toNat ∧ (1 : Byte) ≠ 0 ∧
    (∃ u, catchUp.run (State.reset.onSched fun q => { q with master := 100 }) = .ok () u) :=
  ⟨⟨_, rfl⟩, rfl, by decide, by decide, by decide, ⟨_, rfl⟩⟩

/-- The catch-up one instruction at a time, and one that is fatal. -/
theorem witness_catch_up :
    let s := State.reset.onSched fun q => { q with master := 100 }
    s.apu.acycles < 4 ∧ s.apu.halted = false ∧ (∀ e ∈ s.cfg.spcCosts, 1 ≤ e.2) ∧ (∃ u, audioInstruction s.cfg s.apu = (u, none)) ∧
      (∃ u r, audioInstruction { s.cfg with unimplSpcOps := [0xCD] } s.apu = (u, some r)) :=
  ⟨by decide, rfl, by decide, ⟨_, rfl⟩, ⟨_, _, rfl⟩⟩

/-! ### Instructions -/

/-- A readable operand of each width and of each kind: immediate, memory, a device. -/
theorem witness_source :
    (srcValue (.imm (.b8 5)) .w8).run (native 0x30 id) = .ok (5, Facts.plain) (native 0x30 id) ∧
    (∃ f, (srcValue (.mem (.dp 0x10)) .w16).run (native 0x00 id) = .ok (0, f) (native 0x00 id)) ∧
    (∃ v f u, (srcValue (.mem (.abs 0x4210)) .w8).run (native 0x30 id) = .ok (v, f) u) :=
  ⟨rfl, ⟨_, rfl⟩, ⟨_, _, _, rfl⟩⟩

theorem witness_mapped_source :
    (native 0x30 id).value? .w8 (.imm (.b8 5)) = some (5, Facts.plain) ∧
      (native 0x00 id).value? .w16 (.mem (.dpindy 0x10)) = some (0, Facts.index false) := by decide

/-- A store to memory, and one through the bus of a device. -/
theorem witness_stores :
    Memory.wf (native 0x00 id) = true ∧ (native 0x00 id).loc? (.dp 0x10) = some (.bank 0 0x10, false) ∧
    (native 0x00 id).writable (.bank 0 0x10) .w16 = true ∧
    (∃ u, (resolve (.abs 0x2180)).run (native 0x30 id) = .ok (.lin 0x002180, false) (native 0x30 id) ∧
      (memWrite (.lin 0x002180) .w8 0x42).run (native 0x30 id) = .ok () u) :=
  ⟨by decide, rfl, by decide, _, rfl, rfl⟩

theorem witness_block :
    State.reset.byte? (mkAddr 0x7E State.reset.cpu.x) = some 0 ∧ ∃ u, State.reset.poke? (mkAddr 0x7F State.reset.cpu.y) 0 = some u :=
  ⟨by decide, _, rfl⟩

theorem witness_pushes :
    (∃ u, (native 0x00 id).pushW? 0x1234 .w16 = some u) ∧ (∃ u, (native 0x30 id).pushW? 0x12 .w8 = some u) ∧
    (∃ u, (native 0x00 id).push8? 0x12 = some u) ∧ (∃ u, (native 0x00 id).push16? 0x1234 = some u) ∧
    (native 0x00 id).word? (.bank 0 (0 + zext 0x10)) .w16 = some 0 :=
  ⟨⟨_, rfl⟩, ⟨_, rfl⟩, ⟨_, rfl⟩, ⟨_, rfl⟩, rfl⟩

theorem witness_push_pull :
    Memory.wf (native 0x34 id) = true ∧ (native 0x34 id).cpu.Ok ∧
    (∃ t, (native 0x34 id).push8? 0x12 = some t) ∧ (∃ t, (native 0x34 id).push16? 0x1234 = some t) ∧
    rpage State.reset.cfg (mkAddr 0 (native 0x34 id).cpu.s) ≠ rpage State.reset.cfg (mkAddr 0 (native 0x34 id).cpu.decS.s) :=
  ⟨by decide, ok_of_native _ _ (by decide) rfl, ⟨_, rfl⟩, ⟨_, rfl⟩, by decide⟩

theorem witness_pulls :
    (∃ u, (native 0x00 id).pullW? .w16 = some (0, u)) ∧ (∃ u, (native 0x30 id).pullW? .w8 = some (0, u)) ∧
    (∃ u, (native 0x00 id).pull8? = some (0, u)) ∧ (∃ u, (native 0x00 id).pull16? = some (0, u)) :=
  ⟨⟨_, rfl⟩, ⟨_, rfl⟩, ⟨_, rfl⟩, ⟨_, rfl⟩⟩

theorem witness_arithmetic :
    (0xFF : Word).toNat < 2 ^ Width.w8.bits ∧ (0xFFFF : Word).toNat < 2 ^ Width.w16.bits ∧ Width.w8.isBcd 0x99 ∧
      Width.w16.isBcd 0x9999 ∧ Width.w16.isBcd 0 := by
  refine ⟨by decide, by decide, ?_, ?_, ?_⟩ <;> exact ⟨by decide, by decide, by decide, by decide, by decide⟩

/-- A memory operand that can be read and written, and one of a device. -/
theorem witness_modify :
    Memory.wf (native 0x20 id) = true ∧ (native 0x20 id).loc? (.absx 0x1000) = some (.lin 0x001000, false) ∧
    (native 0x20 id).word? (.lin 0x001000) .w8 = some 0 ∧ (native 0x20 id).writable (.lin 0x001000) .w8 = true ∧
    (∃ s2 u, (resolve (.abs 0x2180)).run (native 0x20 id) = .ok (.lin 0x002180, false) (native 0x20 id) ∧
      (memRead (.lin 0x002180) .w8).run (native 0x20 id) = .ok 0 s2 ∧
      (memWrite (.lin 0x002180) .w8 1).run (s2.onCpu fun b => { b with p := 0x20 }) = .ok () u) :=
  ⟨by decide, rfl, rfl, by decide, _, _, rfl, rfl, rfl⟩

theorem witness_jumps :
    (native 0x34 id).word? (.bank 0 0x10) .w16 = some 0 ∧ (native 0x34 id).word? (.bank 0 (0x10 + 0)) .w16 = some 0 ∧
      (native 0x34 id).far? (.bank 0 0x10) = some 0 := by decide

theorem witness_calls :
    (∃ u, (native 0x34 id).push16? (0x8000 - 1) = some u ∧ u.word? (.bank 0 (0x10 + 0)) .w16 = some 0) ∧
    (∃ u, ((native 0x34 id).push8? 0).bind (State.push16? (0x8000 - 1)) = some u) ∧
    (∃ u u', (native 0x34 id).pull16? = some (0, u) ∧ u.pull8? = some (0, u')) :=
  ⟨⟨_, rfl, rfl⟩, ⟨_, rfl⟩, ⟨_, _, rfl, rfl⟩⟩

theorem witness_exchange_modes :
    (native 0x30 id).cpu.p.getLsbD 0 = false ∧ (native 0x31 id).cpu.p.getLsbD 0 = true := by decide

/-! ### The audio side -/

theorem witness_audio_run :
    (Instr.aNop).isAudio = true ∧ (Instr.aNop).wf = true ∧ State.reset.apu.code? 2 State.reset.apu.pc = some [0xCD, 0xEF] ∧
      (0xCD : Byte) ∉ State.reset.cfg.unimplSpcOps ∧ decodeAudio [0xCD, 0xEF] = some (.aMovX (.imm 0xEF), []) ∧
      State.reset.apu.byte? State.reset.apu.pc = some 0xCD ∧ (State.reset.audio afetch).1 = 0xCD ∧ (0xCD : Byte) ∈ { Config.default with unimplSpcOps := [0xCD] }.unimplSpcOps ∧
      (∀ e ∈ State.reset.cfg.spcCosts, 2 ≤ e.2) := by decide

/-- An audio address below, between and above the I/O registers, and the pointers of the indirect forms. -/
theorem witness_audio_accesses :
    State.reset.apu.byte? 0x00EF = some 0 ∧ State.reset.apu.byte? 0x0100 = some 0 ∧ State.reset.apu.byte? 0xFFC0 = some 0xCD ∧
      State.reset.apu.byte? 0x00F4 = none ∧ Cells.wf 0 0x10000 State.reset.apu.aram = true := by decide

/-- Operands of every kind of the audio ALU operations exist: what `aluOperands` answers is a pair of bytes and a place. -/
theorem witness_audio_operands :
    ∃ l r dst u, State.reset.audio (aluOperands .xy) = ((l, r, dst), u) := ⟨_, _, _, _, rfl⟩

/-- Two reads in order, as the two-operand forms make them, from RAM and from an I/O register; and a write of a word's low byte. -/
theorem witness_audio_order :
    (∃ r t l w, State.reset.audio (aread 0x0010) = (r, t) ∧ State.reset.audioOn t (aread 0x00FD) = (l, w)) ∧
    (∃ t, State.reset.audio (awrite 0x00FF 1) = ((), t)) ∧ (∃ e t, State.reset.audio (aaddr (.idx 0x10)) = (e, t)) :=
  ⟨⟨_, _, _, _, rfl, rfl⟩, ⟨_, rfl⟩, ⟨_, _, rfl⟩⟩

theorem witness_audio_reads :
    (∃ a t v r, State.reset.audio (aaddr (.d 0xF4)) = (a, t) ∧ State.reset.audioOn t (aread a) = (v, r)) ∧
    (∃ w u, State.reset.audio (wordRead 0x10) = (w, u)) ∧ (∃ v t, State.reset.audio (aread 0x0010) = (v, t)) ∧
    (∃ t v, State.reset.audio (aword 0xFFDE) = (t, v)) ∧ (∃ r u, State.reset.audio (asrc (.imm 1)) = (r, u)) :=
  ⟨⟨_, _, _, _, rfl, rfl⟩, ⟨_, _, rfl⟩, ⟨_, _, rfl⟩, ⟨_, _, rfl⟩, ⟨_, _, rfl⟩⟩

/-- The three branches of R680: y below x, y below 2x, y at least 2x. -/
theorem witness_divide :
    (0 : Byte).toNat < (7 : Byte).toNat ∧ (7 : Byte).toNat < 2 * (7 : Byte).toNat ∧ 2 * (2 : Byte).toNat ≤ (4 : Byte).toNat := by
  decide

/-- An enabled timer at the time of its last update and after, and a disabled one. -/
theorem witness_timers :
    0 < State.reset.cfg.prescale0 ∧ State.reset.apu.dspAddr.toNat < 0x80 ∧ ¬(0x80 : Byte).toNat < 0x80 ∧ (Timer.control true Timer.reset).en = true ∧ Timer.reset.last ≤ 0 ∧ Timer.reset.en = false := by
  decide

end Sys2Proof.Tests
end

/-! # PROOFS. O10: a stopped or waiting CPU (R633, R634, R833, R851) -/

namespace Sys2Proof.Proofs

open Sys2Proof Sys2Proof.Machine Sys2Proof.Laws

/-! ## What event processing can do to the registers -/

/-- Event processing can take registers `b` to `b'`: nothing changed, or the CPU was running or waiting and an interrupt entry has cleared
`waiting` (R804, R805). Whatever else the entry does to the registers is left open. -/
def KeptOrWoken (b b' : Cpu) : Prop := b' = b ∨ (b.stopped = false ∧ b'.waiting = false)

theorem KeptOrWoken.trans {b b' b'' : Cpu} (h : KeptOrWoken b b') (h' : KeptOrWoken b' b'') : KeptOrWoken b b'' := by
  rcases h with rfl | ⟨hrun, hwoken⟩
  · exact h'
  · refine Or.inr ⟨hrun, ?_⟩
    rcases h' with rfl | ⟨-, hwoken'⟩
    · exact hwoken
    · exact hwoken'

theorem KeptOrWoken.of_stopped {b b' : Cpu} (h : KeptOrWoken b b') (hs : b.stopped = true) : b' = b :=
  h.resolve_right fun ⟨hrun, _⟩ => absurd hs (by simp [hrun])

/-- An interrupt entry ends with `waiting` cleared (R805). -/
theorem interrupt_waiting {k : IntKind} {ret : Word} {s t : State} {a : Unit} (h : (interrupt k ret).run s = .ok a t) :
    t.cpu.waiting = false := by
  obtain ⟨-, s₁, -, h₁⟩ := ok_of_bind h
  obtain ⟨-, s₂, -, h₂⟩ := ok_of_bind h₁
  obtain ⟨b, s₃, -, h₃⟩ := ok_of_bind h₂
  obtain ⟨v, s₄, -, h₄⟩ := ok_of_bind h₃
  cases h₄
  rfl

/-- `fireNMI()` leaves a stopped CPU alone and ends the wait of any other (R804). -/
theorem fireNmi_keptOrWoken {s t : State} {a : Unit} (h : fireNmi.run s = .ok a t) : KeptOrWoken s.cpu t.cpu := by
  rw [fireNmi, EStateM.run_bind, getCpu_run] at h
  dsimp only at h
  split at h
  · rename_i hrun
    obtain ⟨_, u, hentry, hcharge⟩ := ok_of_bind h
    have hwoken : u.cpu.waiting = false := interrupt_waiting hentry
    cases hcharge
    exact Or.inr ⟨by simpa using hrun, hwoken⟩
  · cases h
    exact Or.inl rfl

/-! ## Event processing -/

/-- The EOL handler touches the registers in the NMI entry at line 224 only (R854). -/
theorem eolBody_keptOrWoken {s t : State} {a : Unit} (h : eolBody s = .ok a t) : KeptOrWoken s.cpu t.cpu := by
  unfold eolBody at h
  split_ifs at h
  · unfold eolNmi at h
    split_ifs at h
    · have hnmi : KeptOrWoken (eolVblank (eolStart s)).cpu t.cpu := fireNmi_keptOrWoken h
      exact hnmi
    · cases h
      exact Or.inl rfl
  · cases h
    exact Or.inl rfl
  · cases h
    exact Or.inl rfl

theorem handleEol_keptOrWoken {s t : State} {ts : Nat} {a : Unit} (h : (handleEol ts).run s = .ok a t) :
    KeptOrWoken s.cpu t.cpu := by
  rw [handleEol_cases] at h
  cases hb : eolBody s with
  | error e u => rw [hb] at h; cases h
  | ok b u =>
    have hbody : KeptOrWoken s.cpu u.cpu := eolBody_keptOrWoken hb
    rw [hb] at h
    cases h
    exact hbody

/-- Of the events' handlers only those that can deliver the NMI touch the registers (R852 to R857). -/
theorem handleEvent_keptOrWoken {s t : State} {e : Event} {a : Unit} (h : (handleEvent e).run s = .ok a t) :
    KeptOrWoken s.cpu t.cpu := by
  unfold handleEvent at h
  split at h
  case h_1 =>
    obtain ⟨u, hu, rfl⟩ := handleHblank_cases h
    exact Or.inl hu.cpu
  case h_2 => exact handleEol_keptOrWoken h
  case h_3 => exact fireNmi_keptOrWoken h
  case h_4 => cases h

/-- What popping an event and every handler keep, event processing keeps (R852). -/
theorem processEvents_keeps {P : State → Prop} (hpop : ∀ s rest, P s → P (popped s rest))
    (hevent : ∀ e, Keeps P (handleEvent e)) (n : Nat) : Keeps P (processEvents n) := by
  induction n with
  | zero => exact Keeps.throw _
  | succ n ih =>
    refine Keeps.get_bind fun s hs => ?_
    split
    · exact Keeps.pure _
    · rename_i e rest _
      exact Keeps.ite (fun _ => Keeps.bind (Keeps.set (hpop s rest hs)) fun _ => Keeps.bind (hevent e) fun _ => ih)
        fun _ => Keeps.pure _

/-- Event processing keeps the registers, or ends the wait of a CPU that is not stopped (R851, R852). -/
theorem runEvents_keptOrWoken {s t : State} {a : Unit} (h : runEvents.run s = .ok a t) : KeptOrWoken s.cpu t.cpu := by
  have hevent : ∀ e, Keeps (fun u => KeptOrWoken s.cpu u.cpu) (handleEvent e) := fun _ _ _ _ hu hrun =>
    hu.trans (handleEvent_keptOrWoken hrun)
  exact processEvents_keeps (fun _ _ hu => hu) hevent _ s a t (Or.inl rfl) h

/-! ## An idle step -/

@[simp] theorem idleAdvance_cpu (s : State) : (idleAdvance s).cpu = s.cpu := by
  unfold idleAdvance
  split
  · rfl
  · rfl

/-- A step of a stopped or waiting CPU that completes is an idle step: no instruction runs (R851, R833). -/
theorem step_eq_idleStep {s t : State} (h : step s = .next t) (hi : s.cpu.stopped = true ∨ s.cpu.waiting = true) :
    step s = idleStep s := by
  have hi' : (s.cpu.stopped || s.cpu.waiting) = true := by simpa using hi
  unfold step at h ⊢
  split at h
  · cases h
  · split_ifs at h with hreset
    rw [if_neg hreset, if_pos hi']

/-- What an idle step can do to the registers (R633, R634, R851). -/
theorem step_idle_keptOrWoken {s t : State} (h : step s = .next t) (hi : s.cpu.stopped = true ∨ s.cpu.waiting = true) :
    KeptOrWoken s.cpu t.cpu := by
  have hidle : idleStep s = .next t := step_eq_idleStep h hi ▸ h
  exact idleAdvance_cpu s ▸ runEvents_keptOrWoken (of_outcomeOf_next hidle)

/-! ## What the host gets -/

theorem hostStep_halted {s t : State} (h : step s = .next t) (hs : t.cpu.stopped = true) : hostStep s = .halted t := by
  simp [hostStep, report, h, hs]

theorem hostStep_ok {s t : State} (h : step s = .next t) (hs : t.cpu.stopped = false) : hostStep s = .ok t := by
  simp [hostStep, report, h, hs]

/-- Settles O10: an idle step only processes events, of which the NMI entry alone touches the registers, and it leaves a stopped CPU
alone and clears `waiting`; the clock is the idle branch's. -/
theorem idleCpu : Obligations.IdleCpu := by
  intro s t h
  refine ⟨fun hs => ?_, hostStep_halted h, hostStep_ok h, fun hw => ?_, fun hi e he => ?_⟩
  · have hcpu : t.cpu = s.cpu := (step_idle_keptOrWoken h (Or.inl hs)).of_stopped hs
    exact ⟨hcpu, hostStep_halted h (hcpu ▸ hs)⟩
  · exact (step_idle_keptOrWoken h (Or.inr hw)).imp_right And.right
  · exact ⟨(step_rel h).1.master, step_idle_time h hi e he⟩

end Sys2Proof.Proofs

/-! # PROOFS. O4 and O12: what every completed step keeps, and a frame's end (R190, R851, R855, R858) -/

namespace Sys2Proof.Proofs

open Sys2Proof Sys2Proof.Machine Sys2Proof.Laws

/-! ## The invariant -/

/-- Settles O4: a completed step keeps the registers' and the devices' part of the invariant, and moves the line timeline on, which keeps
one line event in agreement with the HBlank bit. -/
theorem invariantKept : Obligations.InvariantKept := by
  intro s t hinv h
  obtain ⟨hstep, hline, -⟩ := step_rel h
  obtain ⟨hcpu, hdev⟩ := hstep.inv ⟨hinv.cpu, hinv.dev⟩
  obtain ⟨e, he⟩ := hinv.line
  obtain ⟨e', he', -⟩ := hline e he hinv.dev.vline
  exact ⟨hcpu, hdev, e', he'⟩

/-! ## What a step starts from -/

/-- Only a machine that is not fatal and was reset completes a step (R830, R1065). -/
theorem running_of_step_next {s t : State} (h : step s = .next t) : s.fatal = none ∧ s.resetDone = true := by
  unfold step at h
  split at h
  case h_1 => cases h
  case h_2 hfatal =>
    split_ifs at h with hreset
    all_goals exact ⟨hfatal, by simpa using hreset⟩

/-! ## The loop of a frame -/

/-- A loop that has ended within a bound ends alike within one more (R858). -/
theorem stepsToFrame_succ {n : Nat} {s : State} {o : Report} (h : stepsToFrame n s = some o) :
    stepsToFrame (n + 1) s = some o := by
  induction n generalizing s with
  | zero => cases h
  | succ n ih =>
    rw [stepsToFrame] at h ⊢
    split at h
    case h_1 u hu =>
      split_ifs at h ⊢
      · exact h
      · exact ih h
    case h_2 => exact h
    case h_3 => exact h

theorem stepsToFrame_mono {n m : Nat} (hnm : n ≤ m) {s : State} {o : Report} (h : stepsToFrame n s = some o) :
    stepsToFrame m s = some o :=
  Nat.le_induction h (fun _ _ ih => stepsToFrame_succ ih) m hnm

/-- A loop ends in one way only, whatever its bounds (R858). -/
theorem stepsToFrame_unique {n m : Nat} {s : State} {o o' : Report} (h : stepsToFrame n s = some o)
    (h' : stepsToFrame m s = some o') : o = o' :=
  Option.some.inj <| (stepsToFrame_mono (Nat.le_max_left n m) h).symm.trans (stepsToFrame_mono (Nat.le_max_right n m) h')

/-- A loop that ends without a fault or a refusal reports a step that completed the frame (R858). -/
theorem stepsToFrame_cases {n : Nat} {s : State} {o : Report} (h : stepsToFrame n s = some o) :
    (∃ u, o = report (.next u) ∧ u.sched.frameComplete = true) ∨ (∃ f, o = report (.fault f)) ∨ ∃ r, o = .refused r := by
  induction n generalizing s with
  | zero => cases h
  | succ n ih =>
    rw [stepsToFrame] at h
    split at h
    case h_1 u _ =>
      split_ifs at h with hframe
      · exact Or.inl ⟨u, (Option.some.inj h).symm, hframe⟩
      · exact ih h
    case h_2 f _ => exact Or.inr (Or.inl ⟨f, (Option.some.inj h).symm⟩)
    case h_3 r _ => exact Or.inr (Or.inr ⟨r, (Option.some.inj h).symm⟩)

/-- What the host gets for a next state holds that state (R851). -/
theorem report_next_state {u t : State} (h : report (.next u) = .ok t ∨ report (.next u) = .halted t) : u = t := by
  simp only [report] at h
  split_ifs at h
  · simpa using h
  · simpa using h

/-- A loop that answers a next state has the frame complete in it (R858). -/
theorem stepsToFrame_frameComplete {n : Nat} {s t : State} {o : Report} (h : stepsToFrame n s = some o)
    (ho : o = .ok t ∨ o = .halted t) : t.sched.frameComplete = true := by
  rcases stepsToFrame_cases h with ⟨u, rfl, hframe⟩ | ⟨f, rfl⟩ | ⟨r, rfl⟩
  · exact report_next_state ho ▸ hframe
  · obtain ⟨why, u⟩ := f
    simp [report] at ho
  · simp at ho

/-! ## Frames -/

theorem frameReturns_fatal {s : State} {f : Fatal} (hf : s.fatal = some f) (o : Report) : FrameReturns s o ↔ o = .fatal f s := by
  rw [FrameReturns, hf]

theorem frameReturns_running {s : State} (hf : s.fatal = none) (o : Report) :
    FrameReturns s o ↔ ∃ n, stepsToFrame n (frameStart s) = some o := by
  rw [FrameReturns, hf]

/-- Wherever a cycle takes time, the bound of `runFrame` gives what the unbounded loop does (R858; log 21). -/
theorem frameReturns_runFrame {s : State} (hinv : s.Inv) (hm : 1 ≤ s.cfg.masterPerCycle) (hc : ∀ e ∈ s.cfg.cpuCosts, 1 ≤ e.2) :
    FrameReturns s (runFrame s) := by
  cases hf : s.fatal with
  | some f => rw [frameReturns_fatal hf, runFrame, hf]
  | none =>
    obtain ⟨o, ho⟩ := stepsToFrame_bound hinv hm hc
    rw [frameReturns_running hf, runFrame, hf]
    exact ⟨frameBound s, by simp [ho]⟩

/-- A frame returns one thing only (R858). -/
theorem frameReturns_unique {s : State} {o o' : Report} (h : FrameReturns s o) (h' : FrameReturns s o') : o = o' := by
  cases hf : s.fatal with
  | some f =>
    rw [frameReturns_fatal hf] at h h'
    exact h.trans h'.symm
  | none =>
    obtain ⟨n, hn⟩ := (frameReturns_running hf o).1 h
    obtain ⟨m, hm⟩ := (frameReturns_running hf o').1 h'
    exact stepsToFrame_unique hn hm

/-- A frame that returns a next state has it complete (R858). -/
theorem frameReturns_frameComplete {s t : State} {o : Report} (h : FrameReturns s o) (ho : o = .ok t ∨ o = .halted t) :
    t.sched.frameComplete = true := by
  cases hf : s.fatal with
  | some f =>
    rw [frameReturns_fatal hf] at h
    simp [h] at ho
  | none =>
    obtain ⟨n, hn⟩ := (frameReturns_running hf o).1 h
    exact stepsToFrame_frameComplete hn ho

/-- Settles O12: a completed step keeps the parameters, does not turn the clock back and charges the cost of the instruction it runs; and the
loop of a frame ends within the bound of `runFrame`, in one way, whatever bound it is given. -/
theorem timeOnlyIncreases : Obligations.TimeOnlyIncreases := by
  refine ⟨fun s t h => ?_, fun _ => frameReturns_runFrame, fun _ _ _ => frameReturns_unique, fun s t h => ?_⟩
  · obtain ⟨hstep, -, -⟩ := step_rel h
    obtain ⟨hfatal, hreset⟩ := running_of_step_next h
    exact ⟨hstep.master, fun hc => step_time (Nat.le_refl 2) hc h, hstep.cfg, hstep.fatal.trans hfatal, hstep.resetDone.trans hreset⟩
  · rcases h with h | h
    · exact frameReturns_frameComplete h (Or.inl rfl)
    · exact frameReturns_frameComplete h (Or.inr rfl)

end Sys2Proof.Proofs

/-! # PROOFS. Addresses, the I/O window and the page tables (R192, R210, R211, R230) -/

namespace Sys2Proof.Proofs

open Sys2Proof Sys2Proof.Machine Sys2Proof.Laws

/-! ## Addresses -/

@[simp] theorem offOf_mkAddr (bank : Byte) (off : Word) : offOf (mkAddr bank off) = off :=
  BitVec.extractLsb'_append_eq_right

@[simp] theorem bankOf_mkAddr (bank : Byte) (off : Word) : bankOf (mkAddr bank off) = bank :=
  BitVec.extractLsb'_append_eq_left

/-- The banks that show the I/O window and the low mirror of work RAM (R221, R230). -/
abbrev LowBank (bank : Byte) : Prop := bank.toNat ≤ 0x3F ∨ (0x80 ≤ bank.toNat ∧ bank.toNat ≤ 0xBF)

theorem ioWindow_iff {bank off : Nat} : ioWindow bank off = true ↔
    (bank ≤ 0x3F ∨ (0x80 ≤ bank ∧ bank ≤ 0xBF)) ∧ 0x2000 ≤ off ∧ off ≤ 0x5FFF := by
  simp [ioWindow, and_assoc]

/-! ## The slow path -/

theorem wpage_eq_none {cfg : Config} {a : Addr} (h : rpage cfg a = none) : wpage cfg a = none := by
  rw [wpage, h]
  rfl

theorem wpage_rom {cfg : Config} {a : Addr} {i : Nat} (h : rpage cfg a = some (.rom, i)) : wpage cfg a = none := by
  rw [wpage, h]
  rfl

/-- A read of an unmapped address takes the slow path (R210). -/
theorem read8_slow {s : State} {a : Addr} (h : rpage s.cfg a = none) : (read8 a).run s = (ioRead a).run s := by
  simp only [read8, EStateM.run_bind, EStateM.run_get, h]

/-- A write of an address that is not writable takes the slow path (R211). -/
theorem write8_slow {s : State} {a : Addr} (v : Byte) (h : wpage s.cfg a = none) :
    (write8 a v).run s = (ioWrite a v).run s := by
  simp only [write8, EStateM.run_bind, EStateM.run_get, h]

/-- The I/O window is unmapped under every cartridge (R221). -/
theorem rpage_window {cfg : Config} {a : Addr} (h : ioWindow (bankOf a).toNat (offOf a).toNat = true) :
    rpage cfg a = none := by
  simp only [rpage, h, if_true]

/-- Outside the window the slow path finds no register (R230). -/
theorem ioRead_outside {s : State} {a : Addr} (h : ioWindow (bankOf a).toNat (offOf a).toNat = false) :
    (ioRead a).run s = .error (.fatal (.unmappedRead a)) s := by
  simp only [ioRead, h, Bool.not_false, if_true, raise_run]

theorem ioWrite_outside {s : State} {a : Addr} (v : Byte) (h : ioWindow (bankOf a).toNat (offOf a).toNat = false) :
    (ioWrite a v).run s = .error (.fatal (.unmappedWrite a)) s := by
  simp only [ioWrite, h, Bool.not_false, if_true, raise_run]

section Window

variable {s : State} {bank : Byte} {off : Word}

theorem ioWindow_of_low (hb : LowBank bank) (h1 : 0x2000 ≤ off.toNat) (h2 : off.toNat ≤ 0x5FFF) :
    ioWindow (bankOf (mkAddr bank off)).toNat (offOf (mkAddr bank off)).toNat = true := by
  rw [bankOf_mkAddr, offOf_mkAddr, ioWindow_iff]
  exact ⟨hb, h1, h2⟩

/-- A read in the window is a register's (R230). -/
theorem read8_window (hb : LowBank bank) (h1 : 0x2000 ≤ off.toNat) (h2 : off.toNat ≤ 0x5FFF) :
    (read8 (mkAddr bank off)).run s = (ioRead (mkAddr bank off)).run s :=
  read8_slow (rpage_window (ioWindow_of_low hb h1 h2))

theorem write8_window (v : Byte) (hb : LowBank bank) (h1 : 0x2000 ≤ off.toNat) (h2 : off.toNat ≤ 0x5FFF) :
    (write8 (mkAddr bank off) v).run s = (ioWrite (mkAddr bank off) v).run s :=
  write8_slow v (wpage_eq_none (rpage_window (ioWindow_of_low hb h1 h2)))

/-- The main CPU reaches the B-bus registers at their offsets (R231). -/
theorem read8_bbus (hb : LowBank bank) (h1 : 0x2100 ≤ off.toNat) (h2 : off.toNat ≤ 0x21FF) :
    (read8 (mkAddr bank off)).run s = (bbusRead (mkAddr bank off)).run s := by
  have hw := ioWindow_of_low hb (by omega) (by omega : off.toNat ≤ 0x5FFF)
  rw [read8_window hb (by omega) (by omega)]
  simp only [ioRead, hw, Bool.not_true, Bool.false_eq_true, if_false]
  rw [offOf_mkAddr, if_pos ⟨h1, h2⟩]

theorem write8_bbus (v : Byte) (hb : LowBank bank) (h1 : 0x2100 ≤ off.toNat) (h2 : off.toNat ≤ 0x21FF) :
    (write8 (mkAddr bank off) v).run s = (bbusWrite (mkAddr bank off) v).run s := by
  have hw := ioWindow_of_low hb (by omega) (by omega : off.toNat ≤ 0x5FFF)
  rw [write8_window v hb (by omega) (by omega)]
  simp only [ioWrite, hw, Bool.not_true, Bool.false_eq_true, if_false]
  rw [offOf_mkAddr, if_pos ⟨h1, h2⟩]

end Window

/-- The PPU has its write registers at 0x2100 to 0x2133 and nowhere else (R231). -/
theorem ppuWrite?_eq_none {off : Nat} (v : Byte) (h : off < 0x2100 ∨ 0x2133 < off) : ppuWrite? off v = none := by
  unfold ppuWrite?
  split
  case h_53 => rfl
  all_goals omega

/-! ## The B-bus registers beside the PPU's (R231 to R234) -/

section Bbus

variable {a : Addr} {v : Byte}

theorem bbusRead_noRead (h : 0x2138 ≤ (offOf a).toNat ∧ (offOf a).toNat ≤ 0x213F ∨ 0x2184 ≤ (offOf a).toNat)
    (hr : (offOf a).toNat ≤ 0x21FF) : bbusRead a = raise (.unmappedRead a) := by
  simp only [bbusRead]
  repeat rw [if_neg (by omega)]

theorem bbusRead_port (h1 : 0x2140 ≤ (offOf a).toNat) (h2 : (offOf a).toNat ≤ 0x217F) :
    bbusRead a = portRead (offOf a).toNat := by
  simp only [bbusRead]
  repeat rw [if_neg (by omega)]
  rw [if_pos ⟨h1, h2⟩]

theorem bbusRead_wmdata (h : offOf a = 0x2180) : bbusRead a = wmdataRead := by
  simp only [bbusRead, h]
  rfl

theorem bbusWrite_readOnly (h1 : 0x2134 ≤ (offOf a).toNat) (h2 : (offOf a).toNat ≤ 0x213F) : bbusWrite a v = pure () := by
  have hp := ppuWrite?_eq_none (off := (offOf a).toNat) v (by omega)
  simp only [bbusWrite, hp]
  rw [if_pos ⟨h1, h2⟩]

theorem bbusWrite_port (h1 : 0x2140 ≤ (offOf a).toNat) (h2 : (offOf a).toNat ≤ 0x217F) :
    bbusWrite a v = portWrite (offOf a).toNat v := by
  have hp := ppuWrite?_eq_none (off := (offOf a).toNat) v (by omega)
  simp only [bbusWrite, hp]
  rw [if_neg (by omega), if_pos ⟨h1, h2⟩]

theorem bbusWrite_wmdata (h : offOf a = 0x2180) : bbusWrite a v = wmdataWrite v := by
  simp only [bbusWrite, h]
  rfl

theorem bbusWrite_noRegister (h : 0x2184 ≤ (offOf a).toNat) : bbusWrite a v = raise (.unmappedWrite a) := by
  have hp := ppuWrite?_eq_none (off := (offOf a).toNat) v (by omega)
  simp only [bbusWrite, hp]
  repeat rw [if_neg (by omega)]

end Bbus

/-! # PROOFS. O21: which bus accesses are fatal (R225, R230, R231, R234 to R237, R896) -/

/-- The offsets of the window that no register has (R231, R234 to R237). -/
def NoRegister (o : Nat) : Prop :=
  o < 0x2100 ∨ (0x2184 ≤ o ∧ o < 0x4016) ∨ (0x4018 ≤ o ∧ o < 0x4200) ∨ o = 0x420E ∨ o = 0x420F ∨
    (0x4220 ≤ o ∧ o < 0x4300) ∨ 0x4380 ≤ o ∨ (0x4300 ≤ o ∧ 12 ≤ o % 16)

section NoRegister

variable {s : State} {a : Addr} (h : NoRegister (offOf a).toNat)
include h

theorem ioRead_noRegister : (ioRead a).run s = .error (.fatal (.unmappedRead a)) s := by
  unfold NoRegister at h
  cases hw : ioWindow (bankOf a).toNat (offOf a).toNat with
  | false => exact ioRead_outside hw
  | true =>
    simp only [ioRead, hw, Bool.not_true, Bool.false_eq_true, if_false]
    by_cases hr : 0x2100 ≤ (offOf a).toNat ∧ (offOf a).toNat ≤ 0x21FF
    · rw [if_pos hr, bbusRead_noRead (by omega) (by omega), raise_run]
    · repeat rw [if_neg (by omega)]
      exact raise_run _ _

theorem ioWrite_noRegister (v : Byte) : (ioWrite a v).run s = .error (.fatal (.unmappedWrite a)) s := by
  unfold NoRegister at h
  cases hw : ioWindow (bankOf a).toNat (offOf a).toNat with
  | false => exact ioWrite_outside v hw
  | true =>
    simp only [ioWrite, hw, Bool.not_true, Bool.false_eq_true, if_false]
    by_cases hr : 0x2100 ≤ (offOf a).toNat ∧ (offOf a).toNat ≤ 0x21FF
    · rw [if_pos hr, bbusWrite_noRegister (by omega), raise_run]
    · repeat rw [if_neg (by omega)]
      exact raise_run _ _

end NoRegister

/-- Settles O21: outside the window the slow path finds no register, and inside it the offsets named have none to read or write. -/
theorem accessFaults : Obligations.AccessFaults := by
  intro s bank off v
  have hoff : (offOf (mkAddr bank off)).toNat = off.toNat := by rw [offOf_mkAddr]
  have hwin : ioWindow (bankOf (mkAddr bank off)).toNat (offOf (mkAddr bank off)).toNat = true ↔
      LowBank bank ∧ 0x2000 ≤ off.toNat ∧ off.toNat ≤ 0x5FFF := by
    rw [bankOf_mkAddr, hoff, ioWindow_iff]
  refine ⟨fun hnone hout => ?_, fun hin hreg => ?_, fun hin h1 h2 => ?_, fun i hrom => ?_⟩
  · have hout' := Bool.eq_false_iff.2 fun h => hout (hwin.1 h)
    rw [read8_slow hnone, write8_slow v (wpage_eq_none hnone)]
    exact ⟨ioRead_outside hout', ioWrite_outside v hout'⟩
  · have hreg' : NoRegister (offOf (mkAddr bank off)).toNat := hoff ▸ hreg
    obtain ⟨hb, h1, h2⟩ := hin
    rw [read8_window hb h1 h2, write8_window v hb h1 h2]
    exact ⟨ioRead_noRegister hreg', ioWrite_noRegister hreg' v⟩
  · rw [read8_bbus hin.1 (by omega) (by omega), write8_bbus v hin.1 (by omega) (by omega)]
    rw [bbusRead_noRead (by omega) (by omega), bbusWrite_readOnly (by omega) (by omega)]
    exact ⟨raise_run _ _, rfl⟩
  · have hout : ioWindow (bankOf (mkAddr bank off)).toNat (offOf (mkAddr bank off)).toNat = false :=
      Bool.eq_false_iff.2 fun h => by simp [rpage_window h] at hrom
    rw [write8_slow v (wpage_rom hrom)]
    exact ioWrite_outside v hout

end Sys2Proof.Proofs

/-! # PROOFS. O20: the page tables of LoROM and HiROM, address by address (R221 to R223) -/

namespace Sys2Proof.Proofs

open Sys2Proof Sys2Proof.Machine Sys2Proof.Laws

theorem rowCovers_iff {r : MapRow} {bank off : Nat} : rowCovers r bank off = true ↔
    r.bankLo ≤ bank ∧ bank ≤ r.bankHi ∧ r.offLo ≤ off ∧ off ≤ r.offHi := by
  simp [rowCovers, and_assoc]

section Rows

variable {cfg : Config} {bank : Byte} {off : Word}

/-- Outside the I/O window the first row that covers an address maps it (R192, R220). -/
theorem rpage_of_rows (hout : ¬(LowBank bank ∧ 0x2000 ≤ off.toNat ∧ off.toNat ≤ 0x5FFF)) :
    rpage cfg (mkAddr bank off) = ((mapRows cfg).find? (rowCovers · bank.toNat off.toNat)).map fun r =>
      (r.region, rowIndex r (regionSize cfg r.region) bank.toNat off.toNat) := by
  have hw : ioWindow bank.toNat off.toNat = false := Bool.eq_false_iff.2 fun h => hout (ioWindow_iff.1 h)
  simp only [rpage, bankOf_mkAddr, offOf_mkAddr, hw, Bool.false_eq_true, if_false]

/-- The rows every mapper has come first (R221). -/
theorem mapRows_common : ∃ rows, mapRows cfg = commonMap ++ rows := ⟨_, rfl⟩

/-- The first 8 KiB of work RAM, mirrored in the low banks (R221). -/
theorem rpage_lowWram (hb : LowBank bank) (ho : off.toNat < 0x2000) :
    rpage cfg (mkAddr bank off) = some (.wram, off.toNat) := by
  obtain ⟨rows, hrows⟩ := mapRows_common (cfg := cfg)
  have hmask : off.toNat &&& 0x1FFF = off.toNat := Nat.and_two_pow_sub_one_of_lt_two_pow (n := 13) ho
  have hmod : off.toNat % 0x20000 = off.toNat := Nat.mod_eq_of_lt (by omega)
  rw [rpage_of_rows (by omega), hrows]
  rcases hb with hb | hb
  all_goals
    simp (disch := (simp only [rowCovers_iff]; omega)) only [commonMap, List.cons_append, List.find?_cons_of_neg,
      List.find?_cons_of_pos, Option.map_some]
    simp [rowIndex, regionSize, hmask, hmod]

/-- The two banks of work RAM (R221). -/
theorem rpage_wramBank (hb : bank.toNat = 0x7E ∨ bank.toNat = 0x7F) :
    rpage cfg (mkAddr bank off) = some (.wram, (bank.toNat - 0x7E) * 0x10000 + off.toNat) := by
  obtain ⟨rows, hrows⟩ := mapRows_common (cfg := cfg)
  have ho := off.isLt
  have hmask : off.toNat &&& 0xFFFF = off.toNat := Nat.and_two_pow_sub_one_of_lt_two_pow (n := 16) ho
  have hor : 0x10000 ||| off.toNat = 0x10000 + off.toNat := (Nat.two_pow_add_eq_or_of_lt (i := 16) ho 1).symm
  have hbank : bank.toNat &&& 1 = bank.toNat - 0x7E := by rcases hb with h | h <;> rw [h] <;> rfl
  rw [rpage_of_rows (by omega), hrows]
  simp (disch := (simp only [rowCovers_iff]; omega)) only [commonMap, List.cons_append, List.find?_cons_of_neg,
    List.find?_cons_of_pos, Option.map_some]
  rcases hb with hb | hb
  · simp [rowIndex, regionSize, hmask, hb, Nat.mod_eq_of_lt (by omega : off.toNat < 0x20000)]
  · simp [rowIndex, regionSize, hmask, hb, hor, Nat.mod_eq_of_lt (by omega : 0x10000 + off.toNat < 0x20000)]

/-- Every other address outside the I/O window is the cartridge's (R221). -/
theorem rpage_cartridge {rows : List MapRow} (hrows : mapRows cfg = commonMap ++ rows)
    (hlow : ¬(LowBank bank ∧ off.toNat < 0x6000)) (hram : bank.toNat ≠ 0x7E ∧ bank.toNat ≠ 0x7F) :
    rpage cfg (mkAddr bank off) = (rows.find? (rowCovers · bank.toNat off.toNat)).map fun r =>
      (r.region, rowIndex r (regionSize cfg r.region) bank.toNat off.toNat) := by
  rw [rpage_of_rows (by omega), hrows]
  simp (disch := (simp only [rowCovers_iff]; omega)) only [commonMap, List.cons_append, List.nil_append,
    List.find?_cons_of_neg]

end Rows

section Cartridge

variable {cfg : Config} {bank : Byte} {off : Word}

/-- LoROM (R222). -/
theorem rpage_loRom (hm : cfg.mapper = .loRom) (hlow : ¬(LowBank bank ∧ off.toNat < 0x6000))
    (hram : bank.toNat ≠ 0x7E ∧ bank.toNat ≠ 0x7F) :
    rpage cfg (mkAddr bank off) =
      if 0x8000 ≤ off.toNat then some (.rom, (((bank.toNat &&& 0x7F) <<< 15) ||| (off.toNat &&& 0x7FFF)) % cfg.romSize)
      else if cfg.sramSize > 0 ∧ ((0x70 ≤ bank.toNat ∧ bank.toNat ≤ 0x7D) ∨ 0xF0 ≤ bank.toNat) then
        some (.sram, (((bank.toNat &&& 0x0F) <<< 15) ||| off.toNat) % cfg.sramSize)
      else none := by
  have hb := bank.isLt
  have ho := off.isLt
  have hrows : mapRows cfg = commonMap ++ (loRomMap ++ if cfg.sramSize > 0 then loRomSramMap else []) := by
    rw [mapRows, hm]
  rw [rpage_cartridge hrows hlow hram]
  by_cases hrom : 0x8000 ≤ off.toNat
  · rw [if_pos hrom]
    rcases (by omega : bank.toNat ≤ 0x7D ∨ 0x80 ≤ bank.toNat) with hb | hb
    all_goals
      simp (disch := (simp only [rowCovers_iff]; omega)) only [loRomMap, List.cons_append, List.find?_cons_of_neg,
        List.find?_cons_of_pos, Option.map_some]
      rfl
  rw [if_neg hrom]
  by_cases hsram : cfg.sramSize > 0 ∧ ((0x70 ≤ bank.toNat ∧ bank.toNat ≤ 0x7D) ∨ 0xF0 ≤ bank.toNat)
  · rw [if_pos hsram, if_pos hsram.1]
    have hmask : off.toNat &&& 0x7FFF = off.toNat := Nat.and_two_pow_sub_one_of_lt_two_pow (n := 15) (by omega)
    rcases hsram.2 with hb | hb
    all_goals
      simp (disch := (simp only [rowCovers_iff]; omega)) only [loRomMap, loRomSramMap, List.cons_append, List.nil_append,
        List.find?_cons_of_neg, List.find?_cons_of_pos, Option.map_some]
      simp only [rowIndex, Nat.sub_zero, hmask, regionSize]
  · rw [if_neg hsram]
    split_ifs with hs
    all_goals
      simp (disch := (simp only [rowCovers_iff]; omega)) only [loRomMap, loRomSramMap, List.cons_append, List.nil_append,
        List.find?_cons_of_neg, List.find?_nil, Option.map_none]

/-- HiROM (R223). -/
theorem rpage_hiRom (hm : cfg.mapper = .hiRom) (hlow : ¬(LowBank bank ∧ off.toNat < 0x6000))
    (hram : bank.toNat ≠ 0x7E ∧ bank.toNat ≠ 0x7F) :
    rpage cfg (mkAddr bank off) =
      if LowBank bank → 0x8000 ≤ off.toNat then
        some (.rom, (((bank.toNat &&& 0x3F) <<< 16) ||| off.toNat) % cfg.romSize)
      else if cfg.sramSize > 0 ∧ 0x20 ≤ bank.toNat % 0x80 then
        some (.sram, (((bank.toNat &&& 0x1F) <<< 13) ||| (off.toNat - 0x6000)) % cfg.sramSize)
      else none := by
  have hb := bank.isLt
  have ho := off.isLt
  have hrows : mapRows cfg = commonMap ++ (hiRomMap ++ if cfg.sramSize > 0 then hiRomSramMap else []) := by
    rw [mapRows, hm]
  rw [rpage_cartridge hrows hlow hram]
  by_cases hrom : LowBank bank → 0x8000 ≤ off.toNat
  · rw [if_pos hrom]
    have hmask : off.toNat &&& 0xFFFF = off.toNat := Nat.and_two_pow_sub_one_of_lt_two_pow (n := 16) ho
    rcases (by omega : (0x40 ≤ bank.toNat ∧ bank.toNat ≤ 0x7D) ∨ 0xC0 ≤ bank.toNat ∨
      (bank.toNat ≤ 0x3F ∧ 0x8000 ≤ off.toNat) ∨
      (0x80 ≤ bank.toNat ∧ bank.toNat ≤ 0xBF ∧ 0x8000 ≤ off.toNat)) with hb | hb | hb | hb
    all_goals
      simp (disch := (simp only [rowCovers_iff]; omega)) only [hiRomMap, List.cons_append, List.find?_cons_of_neg,
        List.find?_cons_of_pos, Option.map_some]
      simp only [rowIndex, Nat.sub_zero, hmask, regionSize]
  rw [if_neg hrom]
  by_cases hsram : cfg.sramSize > 0 ∧ (0x20 ≤ bank.toNat % 0x80)
  · rw [if_pos hsram, if_pos hsram.1]
    have hmask : (off.toNat - 0x6000) &&& 0x1FFF = off.toNat - 0x6000 :=
      Nat.and_two_pow_sub_one_of_lt_two_pow (n := 13) (by omega)
    rcases (by omega : (0x20 ≤ bank.toNat ∧ bank.toNat ≤ 0x3F) ∨ (0xA0 ≤ bank.toNat ∧ bank.toNat ≤ 0xBF)) with hb | hb
    all_goals
      simp (disch := (simp only [rowCovers_iff]; omega)) only [hiRomMap, hiRomSramMap, List.cons_append, List.nil_append,
        List.find?_cons_of_neg, List.find?_cons_of_pos, Option.map_some]
      simp only [rowIndex, hmask, regionSize]
  · rw [if_neg hsram]
    split_ifs with hs
    all_goals
      simp (disch := (simp only [rowCovers_iff]; omega)) only [hiRomMap, hiRomSramMap, List.cons_append, List.nil_append,
        List.find?_cons_of_neg, List.find?_nil, Option.map_none]

end Cartridge

/-- Settles O20: the rows of every mapper first, then the cartridge's, LoROM's and HiROM's each written out as one case distinction. -/
theorem addressMap : Obligations.AddressMap := by
  intro cfg bank off
  have hb := bank.isLt
  refine ⟨rpage_lowWram, rpage_wramBank, fun hl h1 h2 => rpage_window (ioWindow_of_low hl h1 (by omega)), fun hm => ?_,
    fun hm => ?_, rfl⟩
  · refine ⟨fun hbank ho => ?_, fun hbank ho => ?_, fun hbank ho => ?_, fun hl h1 h2 => ?_⟩
    · rw [rpage_loRom hm (by omega) (by omega), if_pos ho]
    · rw [rpage_loRom hm (by omega) (by omega), if_neg (by omega)]
      simp only [hbank, and_true]
    · rw [rpage_loRom hm (by omega) (by omega), if_neg (by omega), if_neg (by omega)]
    · rw [rpage_loRom hm (by omega) (by omega), if_neg (by omega), if_neg (by omega)]
  · refine ⟨fun hbank => ?_, fun hl ho => ?_, fun hl h1 h2 => ?_⟩
    · rw [rpage_hiRom hm (by omega) (by omega), if_pos (by omega)]
    · rw [rpage_hiRom hm (by omega) (by omega), if_pos fun _ => ho]
    · rw [rpage_hiRom hm (by omega) (by omega), if_neg (by omega)]

end Sys2Proof.Proofs

/-! # PROOFS. O22: what a completed bus access keeps (R213, R280, R830, R946) -/

namespace Sys2Proof.Proofs

open Sys2Proof Sys2Proof.Machine Sys2Proof.Laws

/-- Settles O22: what every completed access can do is said once, by `BusRel`. -/
theorem busKeepsRegisters : Obligations.BusKeepsRegisters := by
  intro s t a v h
  have hrel : BusRel s t := h.elim (read8_isBus a s v t) (write8_isBus a v s () t)
  exact ⟨hrel.cpu, hrel.cfg, hrel.fatal, hrel.resetDone, hrel.vline, hrel.frame, hrel.master⟩

/-! # PROOFS. O19: a store to mapped writable bytes (R200, R201, R211, R403) -/

section Store

variable {s t : State} {a : Addr} {b : Byte} {l : Loc} {w : Width} {v : Word}

theorem memory_wf_poke? (hm : Memory.wf s = true) (h : s.poke? a b = some t) : Memory.wf t = true := by
  obtain ⟨p, hp, rfl⟩ := Option.map_eq_some_iff.1 h
  obtain ⟨hr, hrom⟩ := wpage_rpage hp
  have hi := rpage_index (r := p.1) (i := p.2) hr hrom
  obtain ⟨hwram, hsram, hrest⟩ := memory_wf_iff.1 hm
  obtain ⟨r, i⟩ := p
  cases r with
  | rom => exact absurd rfl hrom
  | wram => exact memory_wf_iff.2 ⟨write_wf hi hwram, hsram, hrest⟩
  | sram => exact memory_wf_iff.2 ⟨hwram, write_wf hi hsram, hrest⟩

/-- A byte stored changes nothing but the two RAMs (R211). -/
theorem poke?_frame (h : s.poke? a b = some t) : t = { s with wram := t.wram, sram := t.sram } := by
  obtain ⟨⟨r, i⟩, -, rfl⟩ := Option.map_eq_some_iff.1 h
  cases r <;> rfl

theorem poke?_of_writable (h : (wpage s.cfg a).isSome) : ∃ t, s.poke? a b = some t := by
  obtain ⟨p, hp⟩ := Option.isSome_iff_exists.1 h
  exact ⟨_, by rw [State.poke?, hp]; rfl⟩

/-- Where every byte of it is writable, a store takes place. -/
theorem store?_of_writable (h : s.writable l w = true) : ∃ t, s.store? l w v = some t := by
  cases w with
  | w8 =>
    have h0 : (wpage s.cfg (l.at 0)).isSome := by simpa [State.writable, Loc.bytes] using h
    exact poke?_of_writable h0
  | w16 =>
    obtain ⟨h0, h1⟩ : (wpage s.cfg (l.at 0)).isSome ∧ (wpage s.cfg (l.at 1)).isSome := by
      simpa [State.writable, Loc.bytes] using h
    obtain ⟨u, hu⟩ := poke?_of_writable (b := lo v) h0
    obtain ⟨t, ht⟩ := poke?_of_writable (s := u) (b := hi v) (by rwa [poke?_cfg hu])
    exact ⟨t, by rw [State.store?, hu]; exact ht⟩

/-- What a store to memory did (R200, R201, R211). -/
theorem stored_of_store? (hm : Memory.wf s = true) (h : s.store? l w v = some t) :
    Stored s t l w v ∧ t.cpu = s.cpu ∧ Memory.wf t = true := by
  cases w with
  | w8 =>
    have hp : s.poke? (l.at 0) (lo v) = some t := h
    refine ⟨⟨?_, fun a ha => byte?_poke?_other hp (ha _ (by simp [Loc.bytes])), fun _ => byte?_poke?_same hm hp, by simp⟩,
      poke?_cpu hp, memory_wf_poke? hm hp⟩
    rw [poke?_cpu hp]
    exact poke?_frame hp
  | w16 =>
    obtain ⟨u, h0, h1⟩ := Option.bind_eq_some_iff.1 h
    have hcfg : u.cfg = s.cfg := poke?_cfg h0
    have hu : Memory.wf u = true := memory_wf_poke? hm h0
    have hcpu : t.cpu = s.cpu := (poke?_cpu h1).trans (poke?_cpu h0)
    refine ⟨⟨?_, fun a ha => ?_, fun hw => ?_, fun _ => byte?_poke?_same hu h1⟩, hcpu, memory_wf_poke? hu h1⟩
    · rw [hcpu, poke?_frame h1, poke?_frame h0]
    · have h0' : rpage u.cfg a ≠ rpage u.cfg (l.at 1) := by rw [hcfg]; exact ha _ (by simp [Loc.bytes])
      rw [byte?_poke?_other h1 h0', byte?_poke?_other h0 (ha _ (by simp [Loc.bytes]))]
    · have h01 : rpage u.cfg (l.at 0) ≠ rpage u.cfg (l.at 1) := by rw [hcfg]; simpa using hw
      rw [byte?_poke?_other h1 h01, byte?_poke?_same hm h0]

end Store

/-- Settles O19: a store of writable bytes is one or two bytes put into the RAMs, and each changes its own cell alone. -/
theorem mappedStores : Obligations.MappedStores := by
  intro s l w v hm hw
  obtain ⟨t, ht⟩ := store?_of_writable (v := v) hw
  exact ⟨t, memWrite_mapped ht, stored_of_store? hm ht⟩

/-! # PROOFS. O31: instructions with a readable source operand (R404, R450 to R452, R530, R533, R536 to R542) -/

/-- A body that reads a mapped source operand and then updates the registers alone completes, and changes the main CPU alone. -/
theorem readInstr_mapped {s : State} {src : Src} {p : Word × Facts} {w : Cpu → Width} (h : s.value? (w s.cpu) src = some p)
    (i : Instr) (f : Width → Word → Cpu → Cpu) :
    ∃ b, runInstr i (do
      let w := w (← getCpu)
      let (v, facts) ← srcValue src w
      onCpu (f w v)
      return facts) s = .next (s.onCpu fun _ => b) := by
  refine ⟨_, runInstr_ok (t := s.onCpu fun _ => f (w s.cpu) p.1 s.cpu) (f := p.2) ?_⟩
  rw [bind_ok (getCpu_run s), bind_ok (srcValue_mapped h)]
  rfl

/-- Settles O31: every such instruction is of the shape of `readInstr_mapped`. -/
theorem mappedOperandsComplete : Obligations.MappedOperandsComplete := by
  intro s src r
  refine ⟨fun h => ⟨srcValue_mapped h, ?_⟩, fun h => ⟨srcValue_mapped h, ?_⟩⟩
  · have key := readInstr_mapped (w := Cpu.mW) h
    have arith (i : Instr) (g : Bool → Width → Word → Word → Bool → ArithResult) :=
      key i fun w v b => (b.setAcc w (g (b.flag fD) w (b.acc w) v (b.flag fC)).r).setArith w
        (g (b.flag fD) w (b.acc w) v (b.flag fC))
    have logic (i : Instr) (g : Word → Word → Word) :=
      key i fun w v b => (b.setAcc w (g (b.acc w) v)).setNZ (g (b.acc w) v) w
    have hbit : ∃ b, exec (.bit src) s = .next (s.onCpu fun _ => b) := by
      cases src with
      | imm k => exact key (.bit (.imm k)) fun w v b => b.bitTest w v true
      | mem m => exact key (.bit (.mem m)) fun w v b => b.bitTest w v false
    simp only [List.forall_mem_cons, List.not_mem_nil, false_imp_iff, implies_true, and_true]
    exact ⟨key (.lda src) fun w v b => (b.setAcc w v).setNZ v w, arith (.adc src) adcResult, arith (.sbc src) sbcResult,
      key (.cmp src) fun w v b => b.compare w (b.acc w) v, logic (.and src) (· &&& ·), logic (.ora src) (· ||| ·),
      logic (.eor src) (· ^^^ ·), hbit⟩
  · have key := readInstr_mapped (w := Cpu.xW) h
    simp only [List.forall_mem_cons, List.not_mem_nil, false_imp_iff, implies_true, and_true]
    exact ⟨key (.ldx src) fun w v b => (b.setX w v).setNZ v w, key (.ldy src) fun w v b => (b.setY w v).setNZ v w,
      key (.cpx src) fun w v b => b.compare w b.x v, key (.cpy src) fun w v b => b.compare w b.y v⟩

end Sys2Proof.Proofs

/-! # PROOFS. O27: DMA (R237, R940 to R942, R946, R947, R950, R951) -/

namespace Sys2Proof.Proofs

open Sys2Proof Sys2Proof.Machine Sys2Proof.Laws

/-! ## Channel bytes -/

theorem dmaByte_setDmaByte_same {s : State} {c k : Nat} (v : Byte) (hm : Cells.wf 0 0x80 s.dma = true) :
    dmaByte (setDmaByte c k v s) c k = v := read_write_same hm

theorem dmaByte_setDmaByte_other {s : State} {c k d j : Nat} (v : Byte) (h : 16 * d + j ≠ 16 * c + k) :
    dmaByte (setDmaByte c k v s) d j = dmaByte s d j := read_write_other h s.dma

theorem setDmaByte_wf {s : State} {c k : Nat} (v : Byte) (h : 16 * c + k < 0x80) (hm : Cells.wf 0 0x80 s.dma = true) :
    Cells.wf 0 0x80 (setDmaByte c k v s).dma = true := write_wf h hm

/-- What a transfer leaves in its channel: the final A-bus offset and the count 0 (R947). -/
def dmaWriteBack (c : Nat) (off : Word) (s : State) : State :=
  setDmaByte c 6 0 (setDmaByte c 5 0 (setDmaByte c 3 (hi off) (setDmaByte c 2 (lo off) s)))

section WriteBack

variable {s : State} {c : Nat} (off : Word)

@[simp] theorem dmaWriteBack_sched : (dmaWriteBack c off s).sched = s.sched := rfl
@[simp] theorem dmaWriteBack_wram : (dmaWriteBack c off s).wram = s.wram := rfl
@[simp] theorem dmaWriteBack_wmadd : (dmaWriteBack c off s).wmadd = s.wmadd := rfl

theorem dmaByte_dmaWriteBack_other {d k : Nat} (hk : k < 16) (h : d ≠ c ∨ k ∉ [2, 3, 5, 6]) :
    dmaByte (dmaWriteBack c off s) d k = dmaByte s d k := by
  have hne : ∀ j ∈ [2, 3, 5, 6], 16 * d + k ≠ 16 * c + j := by
    intro j hj heq
    have hj16 : j < 16 := by
      simp only [List.mem_cons, List.not_mem_nil, or_false] at hj
      omega
    obtain ⟨rfl, rfl⟩ : d = c ∧ k = j := by omega
    exact h.elim (fun hd => hd rfl) fun hk => hk hj
  rw [dmaWriteBack, dmaByte_setDmaByte_other _ (hne 6 (by decide)), dmaByte_setDmaByte_other _ (hne 5 (by decide)),
    dmaByte_setDmaByte_other _ (hne 3 (by decide)), dmaByte_setDmaByte_other _ (hne 2 (by decide))]

/-- The bytes written back, read again (R947). -/
theorem dmaByte_dmaWriteBack (hc : c < 8) (hm : Cells.wf 0 0x80 s.dma = true) :
    dmaByte (dmaWriteBack c off s) c 2 = lo off ∧ dmaByte (dmaWriteBack c off s) c 3 = hi off ∧
      dmaByte (dmaWriteBack c off s) c 5 = 0 ∧ dmaByte (dmaWriteBack c off s) c 6 = 0 := by
  have h2 := setDmaByte_wf (c := c) (k := 2) (lo off) (by omega) hm
  have h3 := setDmaByte_wf (c := c) (k := 3) (hi off) (by omega) h2
  have h5 := setDmaByte_wf (c := c) (k := 5) 0 (by omega) h3
  unfold dmaWriteBack
  refine ⟨?_, ?_, ?_, ?_⟩
  · rw [dmaByte_setDmaByte_other _ (by omega), dmaByte_setDmaByte_other _ (by omega), dmaByte_setDmaByte_other _ (by omega),
      dmaByte_setDmaByte_same _ hm]
  · rw [dmaByte_setDmaByte_other _ (by omega), dmaByte_setDmaByte_other _ (by omega), dmaByte_setDmaByte_same _ h2]
  · rw [dmaByte_setDmaByte_other _ (by omega), dmaByte_setDmaByte_same _ h3]
  · rw [dmaByte_setDmaByte_same _ h5]

end WriteBack

/-! ## One transfer -/

/-- A count that is no multiple of the unit is fatal before any access (R942). -/
theorem runDma_count {s : State} {c : Nat}
    (h : dmaCount (dmaChannel s c).count % (dmaPattern (dmaChannel s c).pat).length ≠ 0) :
    (runDma c).run s = .error (.fatal (.dmaCount c (dmaCount (dmaChannel s c).count)
      (dmaPattern (dmaChannel s c).pat).length)) s := by
  simp only [runDma, EStateM.run_bind, EStateM.run_get, if_pos h, raise_run]

/-- Any other transfer moves its bytes, writes the channel back and charges its time (R941, R946, R947). -/
theorem runDma_units {s : State} {c : Nat}
    (h : dmaCount (dmaChannel s c).count % (dmaPattern (dmaChannel s c).pat).length = 0) :
    (runDma c).run s = (do
      let off ← dmaLoop c (dmaChannel s c) (dmaCount (dmaChannel s c).count) 0 (dmaChannel s c).aaddr
      modify (dmaWriteBack c off)
      addMaster (dmaMaster s.cfg (dmaCount (dmaChannel s c).count))).run s := by
  simp only [runDma, EStateM.run_bind, EStateM.run_get, if_neg (not_not_intro h)]
  rfl

/-- The A-bus offset after `n` bytes (R941). -/
def dmaSteps (astep : BitVec 2) (off : Word) (n : Nat) : Word :=
  match astep with
  | 0#2 => off + BitVec.ofNat 16 n
  | 2#2 => off - BitVec.ofNat 16 n
  | _ => off

theorem dmaSteps_zero (astep : BitVec 2) (off : Word) : dmaSteps astep off 0 = off := by
  unfold dmaSteps
  split <;> simp

theorem add_one_add_ofNat {w : Nat} (x : BitVec w) (n : Nat) : x + 1#w + BitVec.ofNat w n = x + BitVec.ofNat w (n + 1) := by
  rw [BitVec.ofNat_add]
  ring

theorem dmaSteps_succ (astep : BitVec 2) (off : Word) (n : Nat) :
    dmaSteps astep (dmaStep astep off) n = dmaSteps astep off (n + 1) := by
  have hcases : astep = 0#2 ∨ astep = 1#2 ∨ astep = 2#2 ∨ astep = 3#2 := by revert astep; decide
  rcases hcases with rfl | rfl | rfl | rfl
  · exact add_one_add_ofNat off n
  · rfl
  · show off - 1#16 - BitVec.ofNat 16 n = off - BitVec.ofNat 16 (n + 1)
    rw [BitVec.ofNat_add]
    ring
  · rfl

/-- A completed loop ends at the offset after its bytes (R941). -/
theorem dmaLoop_offset {c : Nat} {ch : DmaChannel} {n k : Nat} {off r : Word} {s t : State}
    (h : (dmaLoop c ch n k off).run s = .ok r t) : r = dmaSteps ch.astep off n := by
  induction n generalizing k off s with
  | zero =>
    cases h
    exact (dmaSteps_zero _ _).symm
  | succ n ih =>
    obtain ⟨-, u, -, h2⟩ := ok_of_bind h
    rw [ih h2, dmaSteps_succ]

/-! ## What the moves of a transfer leave alone -/

/-- The channels and the scheduler are those of `s`. -/
def SameDma (s t : State) : Prop := t.dma = s.dma ∧ t.sched = s.sched

theorem SameDma.refl (s : State) : SameDma s s := ⟨rfl, rfl⟩

section SameDma

variable {s : State}

theorem catchUp_sameDma : Keeps (SameDma s) catchUp := by
  refine Keeps.get_bind fun u hu => Keeps.bind (Keeps.set hu) fun _ => ?_
  split
  · exact Keeps.pure _
  · exact Keeps.throw _

theorem bbusRead_sameDma (a : Addr) : Keeps (SameDma s) (bbusRead a) := by
  have hdraw : Keeps (SameDma s) draw := Keeps.draw fun _ h => h
  have hget (f : State → Byte) : Keeps (SameDma s) (do return f (← get)) := Keeps.get_bind fun _ _ => Keeps.pure _
  have hport (off : Nat) : Keeps (SameDma s) (portRead off) := Keeps.bind catchUp_sameDma fun _ => hget _
  have hram : Keeps (SameDma s) wmdataRead := Keeps.get_bind fun u hu => Keeps.bind (Keeps.set hu) fun _ => Keeps.pure _
  unfold bbusRead
  exact Keeps.ite (fun _ => hdraw) fun _ => Keeps.ite (fun _ => hget _) fun _ => Keeps.ite (fun _ => hget _) fun _ =>
    Keeps.ite (fun _ => hget _) fun _ => Keeps.ite (fun _ => hdraw) fun _ => Keeps.ite (fun _ => hport _) fun _ =>
    Keeps.ite (fun _ => hram) fun _ => Keeps.ite (fun _ => hdraw) fun _ => Keeps.raise _

theorem bbusWrite_sameDma (a : Addr) (v : Byte) : Keeps (SameDma s) (bbusWrite a v) := by
  have hmodify (f : State → State) (hf : ∀ u, (f u).dma = u.dma ∧ (f u).sched = u.sched) :
      Keeps (SameDma s) (modify f : M Unit) := Keeps.modify fun u hu => ⟨(hf u).1.trans hu.1, (hf u).2.trans hu.2⟩
  have hport (off : Nat) : Keeps (SameDma s) (portWrite off v) :=
    Keeps.bind catchUp_sameDma fun _ => hmodify _ fun _ => ⟨rfl, rfl⟩
  unfold bbusWrite
  dsimp only
  split
  · exact hmodify _ fun _ => ⟨rfl, rfl⟩
  · exact Keeps.ite (fun _ => Keeps.pure _) fun _ => Keeps.ite (fun _ => hport _) fun _ =>
      Keeps.ite (fun _ => hmodify _ fun _ => ⟨rfl, rfl⟩) fun _ => Keeps.ite (fun _ => hmodify _ fun _ => ⟨rfl, rfl⟩) fun _ =>
      Keeps.ite (fun _ => hmodify _ fun _ => ⟨rfl, rfl⟩) fun _ => Keeps.ite (fun _ => hmodify _ fun _ => ⟨rfl, rfl⟩) fun _ =>
      Keeps.raise _

theorem abusRead_sameDma (c : Nat) (a : Addr) : Keeps (SameDma s) (abusRead c a) := by
  refine Keeps.get_bind fun u _ => ?_
  split
  · exact Keeps.pure _
  · exact Keeps.raise _

theorem abusWrite_sameDma (c : Nat) (a : Addr) (v : Byte) : Keeps (SameDma s) (abusWrite c a v) := by
  refine Keeps.get_bind fun u hu => ?_
  split
  · rename_i r i _
    refine Keeps.set ?_
    cases r <;> exact hu
  · exact Keeps.raise _

theorem dmaMove_sameDma (c : Nat) (dir : Bool) (a b : Addr) : Keeps (SameDma s) (dmaMove c dir a b) := by
  have hmove : Keeps (SameDma s) (if dir = true then do
        let v ← bbusRead b
        abusWrite c a v
      else do
        let v ← abusRead c a
        bbusWrite b v) :=
    Keeps.ite (fun _ => Keeps.bind (bbusRead_sameDma b) fun _ => abusWrite_sameDma c a _) fun _ =>
      Keeps.bind (abusRead_sameDma c a) fun _ => bbusWrite_sameDma b _
  refine Keeps.get_bind fun u _ => ?_
  exact Keeps.ite (fun _ => Keeps.bind (Keeps.raise _) fun _ => hmove) fun _ => hmove

theorem dmaLoop_sameDma (c : Nat) (ch : DmaChannel) (n k : Nat) (off : Word) :
    Keeps (SameDma s) (dmaLoop c ch n k off) := by
  induction n generalizing k off with
  | zero => exact Keeps.pure _
  | succ n ih => exact Keeps.bind (dmaMove_sameDma c _ _ _) fun _ => ih _ _

end SameDma

/-- What a completed transfer did: its loop, the write-back and the charge (R941, R946, R947). -/
theorem of_runDma_ok {s t : State} {c : Nat} (h : (runDma c).run s = .ok () t) : ∃ u, SameDma s u ∧
    t = (dmaWriteBack c (dmaSteps (dmaChannel s c).astep (dmaChannel s c).aaddr (dmaCount (dmaChannel s c).count)) u).onSched
      fun q => { q with master := q.master + dmaMaster s.cfg (dmaCount (dmaChannel s c).count) } := by
  by_cases hn : dmaCount (dmaChannel s c).count % (dmaPattern (dmaChannel s c).pat).length = 0
  · rw [runDma_units hn] at h
    obtain ⟨off, u, hloop, hrest⟩ := ok_of_bind h
    cases hrest
    rw [dmaLoop_offset hloop]
    exact ⟨u, dmaLoop_sameDma _ _ _ _ _ s off u (.refl s) hloop, rfl⟩
  · rw [runDma_count hn] at h
    cases h

/-! ## MDMAEN -/

/-- MDMAEN runs the channels of its bits in the order of the list (R940). -/
theorem runDmas_eq_forM (v : Byte) (cs : List Nat) : runDmas v cs = (cs.filter fun d => v.getLsbD d).forM runDma := by
  induction cs with
  | nil => rfl
  | cons c cs ih =>
    cases hv : v.getLsbD c with
    | true =>
      rw [List.filter_cons_of_pos hv, List.forM_eq_forM, List.forM_cons, ← List.forM_eq_forM, ← ih]
      simp only [runDmas, hv, if_true]
    | false =>
      rw [List.filter_cons_of_neg (by simp [hv]), ← ih]
      simp [runDmas, hv]

/-- The bits of a byte with one bit set. -/
theorem filter_oneBit {c : Nat} (hc : c < 8) : (List.range 8).filter (fun d => (1#8 <<< c).getLsbD d) = [c] := by
  interval_cases c <;> rfl

/-- A write of MDMAEN (R940). -/
theorem write8_mdmaen (s : State) (v : Byte) :
    (write8 0x00420B v).run s = (((List.range 8).filter fun d => v.getLsbD d).forM runDma).run s := by
  rw [← runDmas_eq_forM]
  rfl

theorem write8_mdmaen_oneBit {s : State} {c : Nat} (hc : c < 8) :
    (write8 0x00420B (1#8 <<< c)).run s = (runDma c).run s := by
  rw [write8_mdmaen, filter_oneBit hc, List.forM_eq_forM, List.forM_cons, List.forM_nil, bind_pure_unit]

/-! ## The channel bytes on the bus (R237, R951) -/

section ChannelBytes

variable {s : State} {bank : Byte} {c k : Nat}

/-- The address of byte `k` of channel `c` in a bank (R951). -/
def dmaByteAddr (bank : Byte) (c k : Nat) : Addr := mkAddr bank (BitVec.ofNat 16 (0x4300 + 16 * c + k))

theorem offOf_dmaByteAddr (hc : c < 8) (hk : k < 12) : (offOf (dmaByteAddr bank c k)).toNat = 0x4300 + 16 * c + k := by
  rw [dmaByteAddr, offOf_mkAddr, BitVec.toNat_ofNat]
  omega

theorem dmaByteAddr_window (hb : LowBank bank) (hc : c < 8) (hk : k < 12) :
    ioWindow (bankOf (dmaByteAddr bank c k)).toNat (0x4300 + 16 * c + k) = true := by
  rw [dmaByteAddr, bankOf_mkAddr, ioWindow_iff]
  omega

theorem rpage_dmaByteAddr (hb : LowBank bank) (hc : c < 8) (hk : k < 12) : rpage s.cfg (dmaByteAddr bank c k) = none :=
  rpage_window (offOf_dmaByteAddr hc hk ▸ dmaByteAddr_window hb hc hk)

theorem read8_dmaByte (hb : LowBank bank) (hc : c < 8) (hk : k < 12) :
    (read8 (dmaByteAddr bank c k)).run s = .ok (dmaByte s c k) s := by
  have hdiv : (0x4300 + 16 * c + k - 0x4300) / 16 = c := by omega
  have hmod : (0x4300 + 16 * c + k) % 16 = k := by omega
  rw [read8_slow (rpage_dmaByteAddr hb hc hk)]
  simp only [ioRead, offOf_dmaByteAddr hc hk, dmaByteAddr_window hb hc hk, Bool.not_true, Bool.false_eq_true, if_false]
  repeat rw [if_neg (by omega)]
  rw [if_pos (by omega), hdiv, hmod]
  rfl

theorem write8_dmaByte (v : Byte) (hb : LowBank bank) (hc : c < 8) (hk : k < 12) :
    (write8 (dmaByteAddr bank c k) v).run s = .ok () (setDmaByte c k v s) := by
  have hdiv : (0x4300 + 16 * c + k - 0x4300) / 16 = c := by omega
  have hmod : (0x4300 + 16 * c + k) % 16 = k := by omega
  rw [write8_slow v (wpage_eq_none (rpage_dmaByteAddr hb hc hk))]
  simp only [ioWrite, offOf_dmaByteAddr hc hk, dmaByteAddr_window hb hc hk, Bool.not_true, Bool.false_eq_true, if_false]
  repeat rw [if_neg (by omega)]
  rw [if_pos (by omega), hdiv, hmod]
  rfl

end ChannelBytes

/-! ## HDMAEN (R950) -/

theorem write8_hdmaen_zero (s : State) : (write8 0x00420C 0).run s = .ok () { s with hdmaen := 0 } := rfl

theorem write8_hdmaen {s : State} {v : Byte} (hv : v ≠ 0) :
    (write8 0x00420C v).run s = .error (.fatal (.hdmaUnimplemented v)) { s with hdmaen := v } := by
  have hrun : (write8 0x00420C v).run s = (if v ≠ 0 then raise (.hdmaUnimplemented v) else pure () : M Unit).run
    { s with hdmaen := v } := rfl
  rw [hrun, if_pos hv, raise_run]

/-- Settles O27: no move of a transfer touches the channel bytes or the clock, so the write-back and the charge stand as they are. -/
theorem dmaTransfer : Obligations.DmaTransfer := by
  intro s c hc
  refine ⟨runDma_count, fun t hm h => ?_, write8_mdmaen_oneBit hc, write8_mdmaen s, fun bank v k hb hk => ?_,
    rfl, write8_hdmaen_zero s, fun v => write8_hdmaen⟩
  · have hcpu : t.cpu = s.cpu := (runDma_isBus hc s () t h).cpu
    obtain ⟨-, -, -, -, -, -, hdma, -⟩ := memory_wf_iff.1 hm
    obtain ⟨u, ⟨hud, hus⟩, rfl⟩ := of_runDma_ok h
    obtain ⟨h2, h3, h5, h6⟩ := dmaByte_dmaWriteBack (s := u)
      (dmaSteps (dmaChannel s c).astep (dmaChannel s c).aaddr (dmaCount (dmaChannel s c).count)) hc (hud ▸ hdma)
    refine ⟨?_, h5, h6, fun d k hk hd => ?_, ?_, hcpu⟩
    · exact (congrArg₂ mkWord h3 h2).trans (mkWord_hi_lo _)
    · exact (dmaByte_dmaWriteBack_other _ hk hd).trans (congrArg (Cells.read 0 _) hud)
    · rw [onSched_sched, dmaWriteBack_sched, hus]
      rfl
  · refine ⟨read8_dmaByte hb hc hk, _, write8_dmaByte v hb hc hk, rfl, fun hm => ?_⟩
    obtain ⟨-, -, -, -, -, -, hdma, -⟩ := memory_wf_iff.1 hm
    exact ⟨dmaByte_setDmaByte_same v hdma, fun d j hj hd => dmaByte_setDmaByte_other v (by omega)⟩

end Sys2Proof.Proofs

/-! # PROOFS. O28: a transfer from ROM to the WRAM port (R233, R941, R943, R944) -/

namespace Sys2Proof.Proofs

open Sys2Proof Sys2Proof.Machine Sys2Proof.Laws

/-- The byte at a ROM address is the cartridge's, whatever became of the rest (R190, R210). -/
theorem byte?_rom {s : State} {a : Addr} {i : Nat} (h : rpage s.cfg a = some (.rom, i)) :
    s.byte? a = some (Cells.read 0 i s.cfg.rom) := by
  rw [State.byte?, h]
  rfl

/-- The machine after a byte written to WMDATA (R233). -/
def wmdataPut (v : Byte) (s : State) : State := (s.onWram (Cells.write 0 s.wmadd.toNat v)).setWmadd (s.wmadd + 1)

/-- One byte moved from ROM to the WRAM port (R941, R943, R944). -/
theorem dmaMove_rom {s : State} {c i : Nat} {a : Addr} (h : rpage s.cfg a = some (.rom, i)) :
    (dmaMove c false a (mkAddr 0 0x2180)).run s = .ok () (wmdataPut (Cells.read 0 i s.cfg.rom) s) := by
  have hwram : wramToWram s.cfg a (mkAddr 0 0x2180) = false := by simp [wramToWram, h]
  have hread : (abusRead c a).run s = .ok (Cells.read 0 i s.cfg.rom) s := by
    simp only [abusRead, EStateM.run_bind, EStateM.run_get, h]
    rfl
  have hwrite (v : Byte) : bbusWrite (mkAddr 0 0x2180) v = wmdataWrite v := bbusWrite_wmdata (offOf_mkAddr _ _)
  simp only [dmaMove, EStateM.run_bind, EStateM.run_get, hwram, hread, hwrite, Bool.false_eq_true, if_false]
  rfl

/-- `t` is `s` after the `n` bytes from an A-bus offset on went to the places from WMADD on (R233, R943). -/
structure CopiedToWram (bank : Byte) (off : Word) (n : Nat) (s t : State) : Prop where
  bytes : ∀ k, k < n → s.byte? (mkAddr bank (off + BitVec.ofNat 16 k)) =
    some (Cells.read 0 ((s.wmadd.toNat + k) % 0x20000) t.wram)
  rest  : ∀ j, (∀ k, k < n → j ≠ (s.wmadd.toNat + k) % 0x20000) → Cells.read 0 j t.wram = Cells.read 0 j s.wram
  wmadd : t.wmadd = s.wmadd + BitVec.ofNat 17 n

theorem CopiedToWram.zero (bank : Byte) (off : Word) (s : State) : CopiedToWram bank off 0 s s :=
  ⟨fun k hk => absurd hk (Nat.not_lt_zero k), fun _ _ => rfl, (BitVec.add_zero _).symm⟩

/-- Place `k + 1` from WMADD on is place `k` from the next WMADD on (R191). -/
theorem wmadd_succ (m : BitVec 17) (k : Nat) : ((m + 1).toNat + k) % 0x20000 = (m.toNat + (k + 1)) % 0x20000 := by
  rw [BitVec.toNat_add]
  have : (1 : BitVec 17).toNat = 1 := rfl
  omega

/-- One byte more at the front of a copy of fewer than 128 KiB. -/
theorem CopiedToWram.succ {bank : Byte} {off : Word} {n i : Nat} {s t : State} (hwf : Cells.wf 0 0x20000 s.wram = true)
    (hn : n < 0x20000) (hrom : ∀ k, k < n + 1 → ∃ i, rpage s.cfg (mkAddr bank (off + BitVec.ofNat 16 k)) = some (.rom, i))
    (h0 : rpage s.cfg (mkAddr bank off) = some (.rom, i))
    (h : CopiedToWram bank (off + 1) n (wmdataPut (Cells.read 0 i s.cfg.rom) s) t) : CopiedToWram bank off (n + 1) s t := by
  have hm := s.wmadd.isLt
  have hplace (k : Nat) : ((wmdataPut (Cells.read 0 i s.cfg.rom) s).wmadd.toNat + k) % 0x20000 =
      (s.wmadd.toNat + (k + 1)) % 0x20000 := wmadd_succ _ _
  refine ⟨fun k hk => ?_, fun j hj => ?_, ?_⟩
  · cases k with
    | zero =>
      have hkept := h.rest s.wmadd.toNat fun k hk => by rw [hplace]; omega
      have hput : Cells.read 0 s.wmadd.toNat (wmdataPut (Cells.read 0 i s.cfg.rom) s).wram = Cells.read 0 i s.cfg.rom :=
        read_write_same hwf
      have haddr : off + BitVec.ofNat 16 0 = off := BitVec.add_zero off
      rw [haddr, byte?_rom h0, Nat.add_zero, Nat.mod_eq_of_lt hm, hkept, hput]
    | succ k =>
      obtain ⟨i', hi'⟩ := hrom (k + 1) hk
      have haddr : off + 1 + BitVec.ofNat 16 k = off + BitVec.ofNat 16 (k + 1) := add_one_add_ofNat off k
      rw [byte?_rom hi', ← hplace, ← h.bytes k (by omega), haddr]
      exact (byte?_rom (s := wmdataPut _ s) hi').symm
  · rw [h.rest j fun k hk => by rw [hplace]; exact hj (k + 1) (by omega)]
    refine read_write_other ?_ s.wram
    have := hj 0 (by omega)
    rwa [Nat.add_zero, Nat.mod_eq_of_lt hm] at this
  · exact h.wmadd.trans (add_one_add_ofNat s.wmadd n)

/-- With pattern 0 every byte goes to the one port BBAD names (R941, R945). -/
theorem dmaPort_wmdata {ch : DmaChannel} (hpat : ch.pat = 0) (hport : ch.bbad = 0x80) (k : Nat) :
    dmaPort ch k = mkAddr 0 0x2180 := by
  have hk : k % (dmaPattern 0).length = 0 := Nat.mod_one k
  simp only [dmaPort, hpat, hport, hk]
  rfl

/-- The loop of such a transfer, from any byte and offset on (R941). -/
theorem dmaLoop_rom {c : Nat} {ch : DmaChannel} (hdir : ch.dir = false) (hpat : ch.pat = 0) (hstep : ch.astep = 0)
    (hport : ch.bbad = 0x80) {n k : Nat} {off : Word} {s : State} (hn : n ≤ 0x20000) (hwf : Cells.wf 0 0x20000 s.wram = true)
    (hrom : ∀ j, j < n → ∃ i, rpage s.cfg (mkAddr ch.abank (off + BitVec.ofNat 16 j)) = some (.rom, i)) :
    ∃ r t, (dmaLoop c ch n k off).run s = .ok r t ∧ CopiedToWram ch.abank off n s t := by
  induction n generalizing k off s with
  | zero => exact ⟨_, s, rfl, .zero _ _ _⟩
  | succ n ih =>
    have hb : dmaPort ch k = mkAddr 0 0x2180 := dmaPort_wmdata hpat hport k
    have hoff : dmaStep ch.astep off = off + 1 := by rw [hstep]; rfl
    obtain ⟨i, hi⟩ := hrom 0 (by omega)
    have hi : rpage s.cfg (mkAddr ch.abank off) = some (.rom, i) := BitVec.add_zero off ▸ hi
    obtain ⟨r, t, hrun, hcopy⟩ := ih (k := k + 1) (off := off + 1) (s := wmdataPut (Cells.read 0 i s.cfg.rom) s) (by omega)
      (write_wf s.wmadd.isLt hwf) fun j hj => add_one_add_ofNat off j ▸ hrom (j + 1) (by omega)
    refine ⟨r, t, ?_, hcopy.succ hwf (by omega) hrom hi⟩
    rw [dmaLoop, hdir, hb, bind_ok (dmaMove_rom hi), hoff, hrun]

/-- Settles O28: the copy byte by byte, by induction on the count, whose places are distinct since it is at most half of work RAM. -/
theorem dmaCopiesRom : Obligations.DmaCopiesRom := by
  intro s c hc hm ch n hdir hpat hstep hport hrom
  have hn : n ≤ 0x20000 := by
    have := ch.count.isLt
    simp only [n]
    split <;> omega
  have hunits : n % (dmaPattern ch.pat).length = 0 := by
    rw [hpat]
    exact Nat.mod_one n
  obtain ⟨r, u, hloop, hcopy⟩ := dmaLoop_rom (c := c) (k := 0) hdir hpat hstep hport hn (memory_wf_iff.1 hm).1 hrom
  refine ⟨(dmaWriteBack c r u).onSched fun q => { q with master := q.master + dmaMaster s.cfg n }, ?_,
    hcopy.bytes, hcopy.rest, hcopy.wmadd⟩
  exact (runDma_units hunits).trans ((bind_ok hloop).trans rfl)

end Sys2Proof.Proofs

/-! # PROOFS. O29: the WRAM port, the audio ports and the catch-up (R232, R233, R992, R993) -/

namespace Sys2Proof.Proofs

open Sys2Proof Sys2Proof.Machine Sys2Proof.Laws

/-! ## No audio operation moves the audio clock (R124)

`acycles` moves at the end of an audio instruction, by its cost (R650); `abase` moves at reset only. -/

section AudioClock

variable {α β : Type}

/-- The audio clock stands at `now`, counted from the master clock `base` (R124). -/
def ClockAt (base now : Nat) (u : Apu) : Prop := u.abase = base ∧ u.acycles = now

/-- Every run of `m` leaves the audio clock as it stands. -/
def KeepsClock (base now : Nat) (m : A α) : Prop := ∀ cfg u, ClockAt base now u → ClockAt base now ((m.run cfg).run u).2

variable {base now : Nat}

theorem KeepsClock.pure (a : α) : KeepsClock base now (Pure.pure a : A α) := fun _ _ h => h

theorem KeepsClock.bind {x : A α} {f : α → A β} (hx : KeepsClock base now x) (hf : ∀ a, KeepsClock base now (f a)) :
    KeepsClock base now (x >>= f) := fun cfg u h => hf _ cfg _ (hx cfg u h)

theorem KeepsClock.get_bind {f : Apu → A β} (hf : ∀ v, ClockAt base now v → KeepsClock base now (f v)) :
    KeepsClock base now (get >>= f) := fun cfg u h => hf u h cfg u h

theorem KeepsClock.of_get (f : Apu → α) : KeepsClock base now (do return f (← get) : A α) := fun _ _ h => h

theorem KeepsClock.read_bind {f : Config → A β} (hf : ∀ c, KeepsClock base now (f c)) : KeepsClock base now (read >>= f) :=
  fun cfg u h => hf cfg cfg u h

theorem KeepsClock.set {v : Apu} (h : ClockAt base now v) : KeepsClock base now (MonadStateOf.set v : A Unit) := fun _ _ _ => h

theorem KeepsClock.modify {f : Apu → Apu} (h : ∀ u, ClockAt base now u → ClockAt base now (f u)) :
    KeepsClock base now (modify f : A Unit) := fun _ u hu => h u hu

theorem KeepsClock.ite {c : Prop} [Decidable c] {x y : A α} (hx : KeepsClock base now x) (hy : KeepsClock base now y) :
    KeepsClock base now (if c then x else y) := by
  split
  · exact hx
  · exact hy

/-! ### Timers, registers, the bus -/

theorem adraw_clock : KeepsClock base now adraw := fun _ _ h => h

theorem onTimer_clock {u : Apu} (t : Nat) (f : Timer → Timer) (h : ClockAt base now u) : ClockAt base now (u.onTimer t f) := by
  unfold Apu.onTimer
  split <;> exact h

theorem timerUpdate_clock (t : Nat) : KeepsClock base now (timerUpdate t) :=
  .read_bind fun _ => .modify fun _ h => onTimer_clock _ _ h

theorem timerRead_clock (t : Nat) : KeepsClock base now (timerRead t) :=
  .bind (timerUpdate_clock t) fun _ => .get_bind fun _ h => .bind (.set (onTimer_clock _ _ h)) fun _ => .pure _

theorem controlWrite_clock (v : Byte) : KeepsClock base now (controlWrite v) :=
  .bind (timerUpdate_clock 0) fun _ => .bind (timerUpdate_clock 1) fun _ => .bind (timerUpdate_clock 2) fun _ =>
    .modify fun _ h => h

theorem targetWrite_clock (t : Nat) (v : Byte) : KeepsClock base now (targetWrite t v) :=
  .bind (timerUpdate_clock t) fun _ => .modify fun _ h => onTimer_clock _ _ h

theorem ioRegRead_clock (a : Word) : KeepsClock base now (ioRegRead a) := by
  unfold ioRegRead
  split
  case h_8 => exact timerRead_clock 0
  case h_9 => exact timerRead_clock 1
  case h_10 => exact timerRead_clock 2
  case h_11 => exact adraw_clock
  all_goals exact .of_get _

theorem ioRegWrite_clock (a : Word) (v : Byte) : KeepsClock base now (ioRegWrite a v) := by
  unfold ioRegWrite
  split
  case h_2 => exact controlWrite_clock v
  case h_4 =>
    refine .modify fun u h => ?_
    split <;> exact h
  case h_11 => exact targetWrite_clock 0 v
  case h_12 => exact targetWrite_clock 1 v
  case h_13 => exact targetWrite_clock 2 v
  case h_14 => exact .pure _
  all_goals exact .modify fun _ h => h

theorem aread_clock (a : Word) : KeepsClock base now (aread a) := by
  unfold aread
  exact .ite (ioRegRead_clock a) (.of_get _)

theorem awrite_clock (a : Word) (v : Byte) : KeepsClock base now (awrite a v) := by
  have hram : KeepsClock base now (modify fun u => { u with aram := Cells.write 0 a.toNat v u.aram } : A Unit) :=
    .modify fun _ h => h
  unfold awrite
  exact .ite (.bind (ioRegWrite_clock a v) fun _ => hram) hram

theorem afetch_clock : KeepsClock base now afetch := .get_bind fun _ h => .bind (.set h) fun _ => aread_clock _

theorem afetchN_clock (n : Nat) : KeepsClock base now (afetchN n) := by
  induction n with
  | zero => exact .pure _
  | succ n ih => exact .bind afetch_clock fun _ => .bind ih fun _ => .pure _

/-! ### Flags and operands -/

theorem setAflag_clock (i : Nat) (b : Bool) : KeepsClock base now (setAflag i b) := .modify fun _ h => h

theorem aflag_clock (i : Nat) : KeepsClock base now (aflag i) := .of_get _

theorem setnz_clock (v : Byte) : KeepsClock base now (setnz v) := .bind (setAflag_clock _ _) fun _ => setAflag_clock _ _

theorem setnz16_clock (v : Word) : KeepsClock base now (setnz16 v) := .bind (setAflag_clock _ _) fun _ => setAflag_clock _ _

theorem aAdc8_clock (l r : Byte) : KeepsClock base now (aAdc8 l r) :=
  .bind (aflag_clock _) fun _ => .bind (setAflag_clock _ _) fun _ => .bind (setAflag_clock _ _) fun _ =>
    .bind (setAflag_clock _ _) fun _ => .bind (setnz_clock _) fun _ => .pure _

theorem aCmp8_clock (l r : Byte) : KeepsClock base now (aCmp8 l r) := .bind (setAflag_clock _ _) fun _ => setnz_clock _

theorem dpAddr_clock (o : Byte) : KeepsClock base now (dpAddr o) := .of_get _

theorem dpPtr_clock (o : Byte) : KeepsClock base now (dpPtr o) :=
  .bind (dpAddr_clock _) fun _ => .bind (aread_clock _) fun _ => .bind (dpAddr_clock _) fun _ =>
    .bind (aread_clock _) fun _ => .pure _

theorem aaddr_clock (m : AMode) : KeepsClock base now (aaddr m) := by
  cases m with
  | d o => exact dpAddr_clock o
  | dx o => exact .get_bind fun _ _ => dpAddr_clock _
  | dy o => exact .get_bind fun _ _ => dpAddr_clock _
  | idx o => exact .get_bind fun _ _ => dpPtr_clock _
  | idy o => exact .bind (dpPtr_clock _) fun _ => .of_get _
  | abs a => exact .pure _
  | absx a => exact .of_get _
  | absy a => exact .of_get _
  | ix => exact .get_bind fun _ _ => dpAddr_clock _

theorem asrc_clock (s : ASrc) : KeepsClock base now (asrc s) := by
  cases s with
  | imm i => exact .pure _
  | mem m => exact .bind (aaddr_clock m) fun _ => aread_clock _

theorem wordWrite_clock (o : Byte) (v : Word) : KeepsClock base now (wordWrite o v) :=
  .bind (dpAddr_clock _) fun _ => .bind (awrite_clock _ _) fun _ => .bind (dpAddr_clock _) fun _ => awrite_clock _ _

theorem aluOperands_clock (o : AAlu) : KeepsClock base now (aluOperands o) := by
  cases o with
  | acc s => exact .bind (asrc_clock s) fun _ => .of_get _
  | dd src dst =>
    exact .bind (dpAddr_clock _) fun _ => .bind (aread_clock _) fun _ => .bind (dpAddr_clock _) fun _ =>
      .bind (aread_clock _) fun _ => .pure _
  | dImm i d => exact .bind (dpAddr_clock _) fun _ => .bind (aread_clock _) fun _ => .pure _
  | xy => exact .get_bind fun _ _ => .bind (aread_clock _) fun _ => .bind (aread_clock _) fun _ => .pure _

theorem aluStore_clock (dst : Option Word) (v : Byte) : KeepsClock base now (aluStore dst v) := by
  cases dst with
  | none => exact .modify fun _ h => h
  | some t => exact awrite_clock _ _

theorem armw_clock {f : Byte → A Byte} (hf : ∀ v, KeepsClock base now (f v)) (op : ARmw) : KeepsClock base now (armw f op) := by
  cases op with
  | mem m => exact .bind (aaddr_clock m) fun _ => .bind (aread_clock _) fun _ => .bind (hf _) fun _ => awrite_clock _ _
  | a => exact .get_bind fun _ _ => .bind (hf _) fun v => .modify (f := fun u => { u with a := v }) fun _ h => h
  | x => exact .get_bind fun _ _ => .bind (hf _) fun v => .modify (f := fun u => { u with x := v }) fun _ h => h
  | y => exact .get_bind fun _ _ => .bind (hf _) fun v => .modify (f := fun u => { u with y := v }) fun _ h => h

/-! ### The stack, jumps and bits -/

theorem apush_clock (v : Byte) : KeepsClock base now (apush v) :=
  .get_bind fun _ _ => .bind (awrite_clock _ _) fun _ => .modify fun _ h => h

theorem apull_clock : KeepsClock base now apull := .bind (.modify fun _ h => h) fun _ => .get_bind fun _ _ => aread_clock _

theorem apushPC_clock (v : Word) : KeepsClock base now (apushPC v) := .bind (apush_clock _) fun _ => apush_clock _

theorem apullPC_clock : KeepsClock base now apullPC := .bind apull_clock fun _ => .bind apull_clock fun _ => .pure _

theorem aword_clock (t : Word) : KeepsClock base now (aword t) :=
  .bind (aread_clock _) fun _ => .bind (aread_clock _) fun _ => .pure _

theorem abranch_clock (c : Bool) (r : Byte) : KeepsClock base now (abranch c r) := by
  unfold abranch
  exact .ite (.bind (.modify fun _ h => h) fun _ => .pure _) (.bind (.pure _) fun _ => .pure _)

theorem setApc_clock (v : Word) : KeepsClock base now (setApc v) := .modify fun _ h => h

theorem memBit_clock (m : BitVec 13) (b : BitVec 3) : KeepsClock base now (memBit m b) :=
  .bind (aread_clock _) fun _ => .pure _

theorem audioPop_clock (r : AStackReg) : KeepsClock base now (audioPop r) := by
  refine .bind apull_clock fun v => .bind (.modify fun u h => ?_) fun _ => .pure _
  cases r <;> exact h

/-- The body of every audio instruction is put together from the operations above. -/
theorem audioBody_clock {i : Instr} {body : A Bool} (h : audioBody i = some body) : KeepsClock base now body := by
  cases i <;> cases h
  case aPop r => exact audioPop_clock r
  all_goals
    simp only [audioMovA, audioMovX, audioMovY, audioMovStA, audioMovStX, audioMovStY, audioMovXA, audioMovAX, audioMovYA,
      audioMovAY, audioMovXSp, audioMovSpX, audioMovDD, audioMovDI, audioMovIncA, audioMovAInc, audioXcn,
      audioAdc, audioSbc, aSbc8, audioCmp, audioCmpX, audioCmpY, audioAnd, audioOr, audioEor, aLogic,
      audioInc, audioDec, audioAsl, audioLsr, audioRol, audioRor,
      wordRead, audioMovwLd, audioMovwSt, audioIncw, audioDecw, audioAddw, audioSubw, audioCmpw,
      audioMul, audioDiv, audioDaa, audioDas,
      audioBra, audioBeq, audioBne, audioBcs, audioBcc, audioBvs, audioBvc, audioBmi, audioBpl, audioBbs, audioBbc,
      audioCbne, audioCbneX, audioDbnz, audioDbnzY,
      audioJmp, audioJmpInd, audioCall, audioPcall, audioTcall, audioBrk, audioRet, audioReti, audioPush,
      audioSet1, audioClr1, audioTset1, audioTclr1, audioAnd1, audioOr1, audioEor1, audioNot1, audioMov1Ld, audioMov1St,
      audioClrc, audioSetc, audioNotc, audioClrv, audioClrp, audioSetp, audioEi, audioDi, audioNop, audioSleep, audioStop]
    repeat' with_reducible first
      | exact KeepsClock.pure _ | exact KeepsClock.of_get _ | exact setnz_clock _ | exact setnz16_clock _ | exact setAflag_clock _ _
      | exact aflag_clock _ | exact aread_clock _ | exact awrite_clock _ _ | exact dpAddr_clock _ | exact dpPtr_clock _
      | exact aaddr_clock _ | exact asrc_clock _ | exact wordWrite_clock _ _ | exact aluOperands_clock _
      | exact aluStore_clock _ _ | exact aAdc8_clock _ _ | exact aCmp8_clock _ _ | exact apush_clock _ | exact apull_clock
      | exact apushPC_clock _ | exact apullPC_clock | exact aword_clock _ | exact abranch_clock _ _ | exact setApc_clock _
      | exact memBit_clock _ _ | refine armw_clock (fun _ => ?_) _ | refine KeepsClock.get_bind fun _ _ => ?_
      | refine KeepsClock.bind ?_ fun _ => ?_ | refine KeepsClock.ite ?_ ?_ | refine KeepsClock.modify fun _ h => ?_
      | refine KeepsClock.set ?_
  all_goals assumption

end AudioClock

/-! ## The cost of an audio instruction (R650, R1071) -/

/-- Whatever its operand bytes, a shape gives an instruction that has an opcode. -/
def HasOpcode : Shape → Prop
  | .b0 i => i.opcode?.isSome
  | .b1 k => ∀ a, (k a).opcode?.isSome
  | .w2 k => ∀ a, (k a).opcode?.isSome
  | .l3 k => ∀ a, (k a).opcode?.isSome
  | .bb k => ∀ a b, (k a b).opcode?.isSome
  | .immM k => ∀ a, (k a).opcode?.isSome
  | .immX k => ∀ a, (k a).opcode?.isSome
  | .mb k => ∀ a b, (k a b).opcode?.isSome

theorem HasOpcode.build {sh : Shape} (h : HasOpcode sh) {m x : Bool} {bs rest : List Byte} {i : Instr}
    (hb : sh.build m x bs = some (i, rest)) : i.opcode?.isSome := by
  unfold Shape.build at hb
  split at hb
  case h_6 | h_7 =>
    split_ifs at hb
    · cases hb
      exact h _
    · split at hb
      · cases hb
        exact h _
      · cases hb
  case h_9 => cases hb
  case h_1 =>
    cases hb
    exact h
  case h_5 | h_8 =>
    cases hb
    exact h _ _
  all_goals
    cases hb
    exact h _

theorem audioRows_hasOpcode : ∀ row ∈ audioRows, ∀ sh ∈ row, HasOpcode sh := by
  simp only [audioRows, List.forall_mem_cons, HasOpcode, audio0, audio1, audio2, audio3, audio4, audio5, audio6, audio7, audio8,
    audio9, audioA, audioB, audioC, audioD, audioE, audioF]
  repeat' first
    | exact rfl
    | exact fun _ => rfl
    | exact fun _ _ => rfl
    | exact fun _ h => absurd h List.not_mem_nil
    | refine And.intro ?_ ?_

/-- A decoded audio instruction has an opcode (R310). -/
theorem decodeAudio_hasOpcode {op : Byte} {bs rest : List Byte} {i : Instr} (h : decodeAudio (op :: bs) = some (i, rest)) :
    i.opcode?.isSome := by
  simp only [decodeAudio, audioShape, mapEntry, Option.bind_eq_some_iff] at h
  obtain ⟨sh, ⟨row, hrow, hsh⟩, hb⟩ := h
  exact (audioRows_hasOpcode row (List.mem_of_getElem? hrow) sh (List.mem_of_getElem? hsh)).build hb

theorem spcCycles_ge (op : Byte) (taken : Bool) : 2 ≤ spcCycles op taken := by
  revert op taken
  decide

/-- Where no listed cost is below `k`, and `k` is at most 2, no audio instruction costs less (R1071). -/
theorem audioCost_ge {cfg : Config} {k : Nat} (hk : k ≤ 2) (h : ∀ e ∈ cfg.spcCosts, k ≤ e.2) {i : Instr}
    (hi : i.opcode?.isSome) (taken : Bool) : k ≤ audioCost cfg i taken := by
  obtain ⟨op, hop⟩ := Option.isSome_iff_exists.1 hi
  simp only [audioCost, hop, spcCost]
  cases hl : cfg.spcCosts.lookup ⟨op, taken⟩ with
  | some n => exact h _ (lookup_mem hl)
  | none => exact Nat.le_trans hk (spcCycles_ge op taken)

/-- What a completed audio instruction did: fetches, then the body of the instruction decoded, then its cost (R650). -/
theorem of_audioInstruction_ok {cfg : Config} {u u' : Apu} (h : audioInstruction cfg u = (u', none)) :
    ∃ i body v, i.opcode?.isSome ∧ audioBody i = some body ∧ ClockAt u.abase u.acycles v ∧ u' = audioFinish i body cfg v := by
  have h1 := afetch_clock cfg u ⟨rfl, rfl⟩
  rcases hf : (afetch.run cfg).run u with ⟨op, u1⟩
  rw [hf] at h1
  have h2 := afetchN_clock (((audioShape op).map (·.operands true true)).getD 0) cfg u1 h1
  rcases hn : ((afetchN (((audioShape op).map (·.operands true true)).getD 0)).run cfg).run u1 with ⟨bs, u2⟩
  rw [hn] at h2
  simp only [audioInstruction, hf, hn] at h
  by_cases hop : cfg.unimplSpcOps.contains op = true
  · rw [if_pos hop] at h
    cases h
  rw [if_neg hop] at h
  split at h
  case h_2 => cases h
  case h_1 i body hb =>
    obtain ⟨⟨i', rest⟩, hdec, hmap⟩ := Option.bind_eq_some_iff.1 hb
    obtain ⟨body', hbody, hpair⟩ := Option.map_eq_some_iff.1 hmap
    cases hpair
    cases h
    exact ⟨_, _, u2, decodeAudio_hasOpcode hdec, hbody, h2, rfl⟩

/-- A completed audio instruction keeps `abase`, and time passes where it costs anything (R124, R650). -/
theorem audioInstruction_clock {cfg : Config} {u u' : Apu} (h : audioInstruction cfg u = (u', none)) :
    u'.abase = u.abase ∧ ((∀ e ∈ cfg.spcCosts, 1 ≤ e.2) → u.acycles < u'.acycles) := by
  obtain ⟨i, body, v, hop, hbody, ⟨hbase, hnow⟩, rfl⟩ := of_audioInstruction_ok h
  obtain ⟨hbase', -⟩ := audioBody_clock hbody cfg v ⟨hbase, hnow⟩
  refine ⟨hbase', fun hc => ?_⟩
  have hcost := audioCost_ge (by decide) hc hop ((body.run cfg).run v).1
  show u.acycles < v.acycles + audioCost cfg i ((body.run cfg).run v).1
  omega

/-! ## The catch-up loop (R993) -/

section CatchUp

variable {cfg : Config} {target : Nat} {u u' : Apu}

/-- Nothing runs where the audio cycles have reached the target. -/
theorem audioRun_reached (h : target ≤ u.acycles) (n : Nat) : audioRun cfg target n u = (u, none) := by
  cases n <;> simp only [audioRun, if_neg (Nat.not_lt.2 h)]

theorem audioRun_halted (h : u.acycles < target) (hh : u.halted = true) (n : Nat) :
    audioRun cfg target (n + 1) u = ({ u with acycles := target }, none) := by
  simp only [audioRun, if_pos h, hh, if_true]

/-- One instruction, then the rest of the loop. -/
theorem audioRun_next (h : u.acycles < target) (hh : u.halted = false) (hi : audioInstruction cfg u = (u', none)) (n : Nat) :
    audioRun cfg target (n + 1) u = audioRun cfg target n u' := by
  simp only [audioRun, if_pos h, hh, hi, Bool.false_eq_true, if_false]

/-- An instruction that stops ends the loop (R763). -/
theorem audioRun_stop (h : u.acycles < target) (hh : u.halted = false) {r : Stop}
    (hi : audioInstruction cfg u = (u', some r)) (n : Nat) : audioRun cfg target (n + 1) u = (u', some r) := by
  simp only [audioRun, if_pos h, hh, hi, Bool.false_eq_true, if_false]

/-- A loop that ends without a stop has reached the target. -/
theorem audioRun_target {n : Nat} (h : audioRun cfg target n u = (u', none)) : target ≤ u'.acycles := by
  induction n generalizing u with
  | zero =>
    simp only [audioRun, Prod.mk.injEq] at h
    obtain ⟨rfl, hstop⟩ := h
    split_ifs at hstop with hlt
    exact Nat.not_lt.1 hlt
  | succ n ih =>
    by_cases hlt : u.acycles < target
    · cases hh : u.halted with
      | true =>
        rw [audioRun_halted hlt hh] at h
        cases h
        exact Nat.le_refl _
      | false =>
        rcases hi : audioInstruction cfg u with ⟨u1, _ | r⟩
        · rw [audioRun_next hlt hh hi] at h
          exact ih h
        · rw [audioRun_stop hlt hh hi] at h
          cases h
    · rw [audioRun_reached (Nat.not_lt.1 hlt)] at h
      cases h
      exact Nat.not_lt.1 hlt

/-- Where every instruction takes time, any two bounds that cover the distance to the target give the same loop (log 18). -/
theorem audioRun_bound (hc : ∀ e ∈ cfg.spcCosts, 1 ≤ e.2) {n m : Nat} (hn : target - u.acycles ≤ n)
    (hm : target - u.acycles ≤ m) : audioRun cfg target n u = audioRun cfg target m u := by
  induction n generalizing m u with
  | zero => rw [audioRun_reached (by omega), audioRun_reached (by omega)]
  | succ n ih =>
    by_cases hlt : u.acycles < target
    · obtain ⟨m, rfl⟩ : ∃ k, m = k + 1 := ⟨m - 1, by omega⟩
      cases hh : u.halted with
      | true => rw [audioRun_halted hlt hh, audioRun_halted hlt hh]
      | false =>
        rcases hi : audioInstruction cfg u with ⟨u1, _ | r⟩
        · have htime := (audioInstruction_clock hi).2 hc
          rw [audioRun_next hlt hh hi, audioRun_next hlt hh hi]
          exact ih (by omega) (by omega)
        · rw [audioRun_stop hlt hh hi, audioRun_stop hlt hh hi]
    · rw [audioRun_reached (by omega), audioRun_reached (by omega)]

/-- The catch-up's bound leaves room for a round, and without it still covers the distance (log 18). -/
theorem audioFuel_succ (target : Nat) (u : Apu) : ∃ n, audioFuel target u = n + 1 ∧ target - u.acycles ≤ n :=
  ⟨2 ^ 64 - 1 + (target - u.acycles), by unfold audioFuel; omega, by omega⟩

end CatchUp

/-- The loop of a catch-up (R993). -/
def catchUpRun (s : State) : Apu × Option Stop :=
  audioRun s.cfg (audioTarget s.cfg s.apu s.sched.master) (audioFuel (audioTarget s.cfg s.apu s.sched.master) s.apu) s.apu

section CatchUp

variable {s : State} {u : Apu}

theorem catchUp_ok (h : catchUpRun s = (u, none)) : catchUp.run s = .ok () { s with apu := u } := by
  unfold catchUpRun at h
  simp only [catchUp, EStateM.run_bind, EStateM.run_get, EStateM.run_set, h]
  rfl

theorem catchUp_stop {r : Stop} (h : catchUpRun s = (u, some r)) : catchUp.run s = .error r { s with apu := u } := by
  unfold catchUpRun at h
  simp only [catchUp, EStateM.run_bind, EStateM.run_get, EStateM.run_set, h]
  rfl

theorem catchUp_cases (s : State) : catchUp.run s = match catchUpRun s with
    | (u, none) => .ok () { s with apu := u }
    | (u, some r) => .error r { s with apu := u } := by
  rcases h : catchUpRun s with ⟨u, _ | r⟩
  · exact catchUp_ok h
  · exact catchUp_stop h

/-- A catch-up that ends has reached its target (R993). -/
theorem catchUp_reaches {t : State} (h : catchUp.run s = .ok () t) : audioTarget s.cfg s.apu s.sched.master ≤ t.apu.acycles := by
  rcases hr : catchUpRun s with ⟨u, _ | r⟩
  · rw [catchUp_ok hr] at h
    cases h
    exact audioRun_target hr
  · rw [catchUp_stop hr] at h
    cases h

variable (hlt : s.apu.acycles < audioTarget s.cfg s.apu s.sched.master)
include hlt

theorem catchUp_halted (hh : s.apu.halted = true) : catchUp.run s =
    .ok () { s with apu := { s.apu with acycles := audioTarget s.cfg s.apu s.sched.master } } := by
  obtain ⟨n, hn, -⟩ := audioFuel_succ (audioTarget s.cfg s.apu s.sched.master) s.apu
  exact catchUp_ok (by rw [catchUpRun, hn, audioRun_halted hlt hh])

theorem catchUp_instruction_stops (hh : s.apu.halted = false) {r : Stop} (hi : audioInstruction s.cfg s.apu = (u, some r)) :
    catchUp.run s = .error r { s with apu := u } := by
  obtain ⟨n, hn, -⟩ := audioFuel_succ (audioTarget s.cfg s.apu s.sched.master) s.apu
  exact catchUp_stop (by rw [catchUpRun, hn, audioRun_stop hlt hh hi])

/-- Where every instruction takes time, a catch-up is one instruction and the catch-up from there (R993). -/
theorem catchUp_instruction (hh : s.apu.halted = false) (hc : ∀ e ∈ s.cfg.spcCosts, 1 ≤ e.2)
    (hi : audioInstruction s.cfg s.apu = (u, none)) : catchUp.run s = catchUp.run { s with apu := u } := by
  obtain ⟨n, hn, hdist⟩ := audioFuel_succ (audioTarget s.cfg s.apu s.sched.master) s.apu
  obtain ⟨hbase, htime⟩ := audioInstruction_clock hi
  have htarget : audioTarget s.cfg u s.sched.master = audioTarget s.cfg s.apu s.sched.master := by
    rw [audioTarget, audioTarget, hbase]
  have hrun : catchUpRun s = catchUpRun { s with apu := u } := by
    unfold catchUpRun
    dsimp only
    rw [hn, audioRun_next hlt hh hi, htarget]
    obtain ⟨m, hm, hdist'⟩ := audioFuel_succ (audioTarget s.cfg s.apu s.sched.master) u
    have := htime hc
    exact audioRun_bound hc (by omega) (by omega)
  rw [catchUp_cases, catchUp_cases, hrun]

end CatchUp

/-! ## The ports on the main CPU's bus (R232, R233) -/

theorem toNat_append {v w : Nat} (x : BitVec v) (y : BitVec w) : (x ++ y).toNat = x.toNat * 2 ^ w + y.toNat := by
  rw [BitVec.toNat_append, ← Nat.shiftLeft_add_eq_or_of_lt y.isLt, Nat.shiftLeft_eq]

section Ports

variable {s : State} {bank : Byte} (hb : LowBank bank)
include hb

theorem read8_wmdata : (read8 (mkAddr bank 0x2180)).run s =
    .ok (Cells.read 0 s.wmadd.toNat s.wram) { s with wmadd := s.wmadd + 1 } := by
  rw [read8_bbus hb (by decide) (by decide), bbusRead_wmdata (offOf_mkAddr _ _)]
  rfl

theorem write8_wmdata (v : Byte) : (write8 (mkAddr bank 0x2180) v).run s =
    .ok () { s with wram := Cells.write 0 s.wmadd.toNat v s.wram, wmadd := s.wmadd + 1 } := by
  rw [write8_bbus v hb (by decide) (by decide), bbusWrite_wmdata (offOf_mkAddr _ _)]
  rfl

/-- A write of WMADDL replaces the low byte of WMADD (R233). -/
theorem write8_wmaddl (v : Byte) : ∃ m, (write8 (mkAddr bank 0x2181) v).run s = .ok () { s with wmadd := m } ∧
    m.toNat = s.wmadd.toNat / 256 * 256 + v.toNat := by
  refine ⟨s.wmadd.extractLsb' 8 9 ++ v, ?_, ?_⟩
  · rw [write8_bbus v hb (by decide) (by decide), bbusWrite, offOf_mkAddr]
    rfl
  · have hm := s.wmadd.isLt
    rw [toNat_append, BitVec.extractLsb'_toNat, Nat.shiftRight_eq_div_pow]
    omega

/-- A write of WMADDM replaces the middle byte (R233). -/
theorem write8_wmaddm (v : Byte) : ∃ m, (write8 (mkAddr bank 0x2182) v).run s = .ok () { s with wmadd := m } ∧
    m.toNat = s.wmadd.toNat / 65536 * 65536 + v.toNat * 256 + s.wmadd.toNat % 256 := by
  refine ⟨s.wmadd.extractLsb' 16 1 ++ (v ++ s.wmadd.extractLsb' 0 8 : BitVec 16), ?_, ?_⟩
  · rw [write8_bbus v hb (by decide) (by decide), bbusWrite, offOf_mkAddr]
    rfl
  · have hm := s.wmadd.isLt
    rw [toNat_append, toNat_append, BitVec.extractLsb'_toNat, BitVec.extractLsb'_toNat, Nat.shiftRight_eq_div_pow]
    omega

/-- A write of WMADDH replaces the top bit (R233). -/
theorem write8_wmaddh (v : Byte) : ∃ m, (write8 (mkAddr bank 0x2183) v).run s = .ok () { s with wmadd := m } ∧
    m.toNat = v.toNat % 2 * 65536 + s.wmadd.toNat % 65536 := by
  refine ⟨v.extractLsb' 0 1 ++ s.wmadd.extractLsb' 0 16, ?_, ?_⟩
  · rw [write8_bbus v hb (by decide) (by decide), bbusWrite, offOf_mkAddr]
    rfl
  · rw [toNat_append, BitVec.extractLsb'_toNat, BitVec.extractLsb'_toNat]
    rfl

/-- The 64 audio port addresses mirror four ports, each access after the catch-up (R232). -/
theorem access_port {off : Word} {u : State} (h1 : 0x2140 ≤ off.toNat) (h2 : off.toNat ≤ 0x217F)
    (hc : catchUp.run s = .ok () u) (v : Byte) :
    (read8 (mkAddr bank off)).run s = .ok (u.apu.pout.get (off.toNat % 4)) u ∧
      (write8 (mkAddr bank off) v).run s =
        .ok () { u with apu := { u.apu with pin := u.apu.pin.on (off.toNat % 4) fun _ => v } } := by
  have hoff : (offOf (mkAddr bank off)).toNat = off.toNat := by rw [offOf_mkAddr]
  rw [read8_bbus hb (by omega) (by omega), write8_bbus v hb (by omega) (by omega), bbusRead_port (by omega) (by omega),
    bbusWrite_port (by omega) (by omega), hoff, portRead, portWrite, bind_ok hc, bind_ok hc]
  exact ⟨rfl, rfl⟩

end Ports

/-- Settles O29: the registers' writes on the bits of WMADD, and the catch-up by its loop, whose bound does not matter where instructions
take time. -/
theorem communicationPorts : Obligations.CommunicationPorts := by
  intro s bank v hb
  refine ⟨read8_wmdata hb, write8_wmdata hb v, write8_wmaddl hb v, write8_wmaddm hb v, write8_wmaddh hb v,
    fun off u h1 h2 hc => access_port hb h1 h2 hc v, fun target htarget => ?_⟩
  have htarget : target = audioTarget s.cfg s.apu s.sched.master := htarget
  subst htarget
  exact ⟨fun h => catchUp_ok (audioRun_reached h _), fun hlt hh => catchUp_halted hlt hh,
    fun hlt hh => ⟨fun u r hi => catchUp_instruction_stops hlt hh hi, fun hc u hi => catchUp_instruction hlt hh hc hi⟩,
    fun u h => catchUp_reaches h⟩

end Sys2Proof.Proofs

/-! # PROOFS. O1 to O3: decoding and encoding (R300 to R316) -/

/-! ## Every well-formed instruction is read back -/

namespace Sys2Proof.Laws.RoundTrip

/-- The statement of every instruction, by one lemma per constructor in the order of `Instr`. -/
theorem every (i : Instr) : Statement i :=
  Instr.casesOn i
    lda ldx ldy sta stx sty stz tax tay txa tya txy tyx tsx txs tcs tsc tcd tdc xba mvn mvp pha phx phy php phb phk phd pla
    plx ply plp plb pld pea pei per adc sbc cmp cpx cpy and ora eor bit tsb trb inc dec inx iny dex dey asl lsr rol ror bpl
    bmi bvc bvs bcc bcs bne beq bra brl jmp jmpInd jmpIndX jml jmlInd jsr jsrIndX jsl rts rtl rti brk cop clc sec cli sei cld
    sed clv rep sep xce nop wdm wai stp aMovA aMovX aMovY aMovStA aMovStX aMovStY aMovXA aMovAX aMovYA aMovAY aMovXSp aMovSpX
    aMovDD aMovDI aMovIncA aMovAInc aAdc aSbc aCmp aCmpX aCmpY aAnd aOr aEor aInc aDec aAsl aLsr aRol aRor aXcn aMovwLd
    aMovwSt aIncw aDecw aAddw aSubw aCmpw aMul aDiv aDaa aDas aBra aBeq aBne aBcs aBcc aBvs aBvc aBmi aBpl aBbs aBbc aCbne
    aCbneX aDbnz aDbnzY aJmp aJmpInd aCall aPcall aTcall aBrk aRet aReti aPush aPop aSet1 aClr1 aTset1 aTclr1 aAnd1 aOr1 aEor1
    aNot1 aMov1Ld aMov1St aClrc aSetc aNotc aClrv aClrp aSetp aEi aDi aNop aSleep aStop

end Sys2Proof.Laws.RoundTrip

/-! ## The operand of a map's entry (R301, R302, R311) -/

namespace Sys2Proof.Shape

/-- What an entry's instruction waits for. -/
def Operand : Shape → Type
  | .b0 _ => Unit
  | .b1 _ => Byte
  | .w2 _ => Word
  | .l3 _ => Addr
  | .bb _ => Byte × Byte
  | .immM _ | .immX _ => Imm
  | .mb _ => BitVec 13 × BitVec 3

/-- The instruction an operand completes. -/
def instr : (sh : Shape) → sh.Operand → Instr
  | .b0 i, _ => i
  | .b1 k, v | .w2 k, v | .l3 k, v | .immM k, v | .immX k, v => k v
  | .bb k, v | .mb k, v => k v.1 v.2

/-- The bytes an operand is encoded in (R301, R302, R312). -/
def operandBytes : (sh : Shape) → sh.Operand → List Byte
  | .b0 _, _ => []
  | .b1 _, v => [v]
  | .w2 _, v => word16Bytes v
  | .l3 _, v => long24Bytes v
  | .bb _, v => [v.1, v.2]
  | .immM _, v | .immX _, v => Imm.bytes v
  | .mb _, v => mbBytes v.1 v.2

/-- An immediate operand has the width its flag gives (R303); no other operand depends on M or X. -/
def operandFits (m x : Bool) : (sh : Shape) → sh.Operand → Bool
  | .immM _, v => Imm.fits m v
  | .immX _, v => Imm.fits x v
  | _, _ => true

/-- No entry has more than three operand bytes (R301). -/
theorem operands_le_three (m x : Bool) (sh : Shape) : sh.operands m x ≤ 3 := by
  unfold operands
  split <;> (try split_ifs) <;> omega

end Sys2Proof.Shape

namespace Sys2Proof.Proofs

open Sys2Proof Sys2Proof.Laws

/-! ## Fields written after they are read -/

theorem word16Bytes_word16 (lo hi : Byte) : word16Bytes (word16 lo hi) = [lo, hi] := by
  rw [word16Bytes, word16, BitVec.extractLsb'_append_eq_left, BitVec.extractLsb'_append_eq_right]

theorem long24Bytes_long24 (lo mid hi : Byte) : long24Bytes (long24 lo mid hi) = [lo, mid, hi] := by
  have hlo : (long24 lo mid hi).extractLsb' 0 8 = lo := BitVec.extractLsb'_append_eq_right
  have hmid : (long24 lo mid hi).extractLsb' 8 8 = mid :=
    (BitVec.extractLsb'_append_eq_of_le (by decide)).trans BitVec.extractLsb'_append_eq_right
  have hhi : (long24 lo mid hi).extractLsb' 16 8 = hi :=
    (BitVec.extractLsb'_append_eq_of_le (by decide)).trans BitVec.extractLsb'_append_eq_left
  rw [long24Bytes, hlo, hmid, hhi]

theorem mbBytes_extract (w : Word) : mbBytes (w.extractLsb' 0 13) (w.extractLsb' 13 3) = word16Bytes w := by
  rw [mbBytes, BitVec.extractLsb'_append_extractLsb'_eq_extractLsb' (by decide), BitVec.extractLsb'_eq_self]

/-- Three bytes are enough to build any entry's instruction, whose operand fits and is written as the bytes it was read from. -/
theorem shape_build (sh : Shape) (m x : Bool) (lo mid hi : Byte) (rest : List Byte) : ∃ v : sh.Operand,
    sh.build m x (lo :: mid :: hi :: rest) = some (sh.instr v, (lo :: mid :: hi :: rest).drop (sh.operands m x)) ∧
      sh.operandFits m x v = true ∧ sh.operandBytes v = (lo :: mid :: hi :: rest).take (sh.operands m x) := by
  cases sh with
  | b0 i => exact ⟨(), rfl, rfl, rfl⟩
  | b1 k => exact ⟨lo, rfl, rfl, rfl⟩
  | w2 k => exact ⟨word16 lo mid, rfl, rfl, word16Bytes_word16 lo mid⟩
  | l3 k => exact ⟨long24 lo mid hi, rfl, rfl, long24Bytes_long24 lo mid hi⟩
  | bb k => exact ⟨(lo, mid), rfl, rfl, rfl⟩
  | immM k =>
    cases m with
    | false => exact ⟨.b16 (word16 lo mid), rfl, rfl, word16Bytes_word16 lo mid⟩
    | true => exact ⟨.b8 lo, rfl, rfl, rfl⟩
  | immX k =>
    cases x with
    | false => exact ⟨.b16 (word16 lo mid), rfl, rfl, word16Bytes_word16 lo mid⟩
    | true => exact ⟨.b8 lo, rfl, rfl, rfl⟩
  | mb k => exact ⟨((word16 lo mid).extractLsb' 0 13, (word16 lo mid).extractLsb' 13 3), rfl, rfl,
      (mbBytes_extract _).trans (word16Bytes_word16 lo mid)⟩

/-! ## The maps agree with the encoder (R305, R313) -/

/-- The instruction `sh` completes with `v` is well-formed, is encoded as `op` and the operand's bytes, and fits when `v` does. -/
structure Encodes (audio : Bool) (op : Byte) (sh : Shape) (v : sh.Operand) : Prop where
  isAudio : (sh.instr v).isAudio = audio
  wf : (sh.instr v).wf = true
  opcode : (sh.instr v).opcode? = some op
  bytes : (sh.instr v).operandBytes = sh.operandBytes v
  fits : ∀ m x, (sh.instr v).fits m x = sh.operandFits m x v

theorem Encodes.encode_eq {audio : Bool} {op : Byte} {sh : Shape} {v : sh.Operand} (h : Encodes audio op sh v) :
    encode (sh.instr v) = op :: sh.operandBytes v := by
  rw [encode, h.opcode, h.bytes]

/-- A map has an entry for every opcode byte, and the entry's instructions are encoded with that byte. -/
def MapEncodes (audio : Bool) (rows : List (List Shape)) : Prop :=
  ∀ op : Byte, ∃ sh, mapEntry rows op = some sh ∧ ∀ v, Encodes audio op sh v

/-- A map is checked entry by entry: row = high nibble, column = low nibble. -/
theorem mapEncodes_of_nibbles {audio : Bool} {rows : List (List Shape)}
    (h : ∀ r c : BitVec 4, ∃ sh, mapEntry rows (r ++ c : Byte) = some sh ∧ ∀ v, Encodes audio (r ++ c : Byte) sh v) :
    MapEncodes audio rows := by
  intro op
  have hop : op = (op.extractLsb' 4 4 ++ op.extractLsb' 0 4 : Byte) := by
    rw [BitVec.extractLsb'_append_extractLsb'_eq_extractLsb' (by decide), BitVec.extractLsb'_eq_self]
  rw [hop]
  exact h _ _

/-- The main CPU's map: all 256 opcodes (R305, R307). -/
theorem mainRows_encode : MapEncodes false mainRows := by
  refine mapEncodes_of_nibbles fun ⟨r⟩ ⟨c⟩ => ?_
  fin_cases r <;> fin_cases c <;> exact ⟨_, rfl, fun _ => ⟨rfl, rfl, rfl, rfl, fun _ _ => rfl⟩⟩

/-- The audio CPU's map: all 256 opcodes (R313, R314). -/
theorem audioRows_encode : MapEncodes true audioRows := by
  refine mapEncodes_of_nibbles fun ⟨r⟩ ⟨c⟩ => ?_
  fin_cases r <;> fin_cases c <;> exact ⟨_, rfl, fun _ => ⟨rfl, rfl, rfl, rfl, fun _ _ => rfl⟩⟩

/-- No audio instruction has more than two operand bytes (R310, R311). -/
theorem audioRows_operands_le_two : ∀ op, ∀ sh ∈ mapEntry audioRows op, sh.operands true true ≤ 2 := by decide

/-- An opcode byte and three more hold an instruction, which is encoded as the bytes it takes. -/
theorem MapEncodes.build {audio : Bool} {rows : List (List Shape)} (h : MapEncodes audio rows) (m x : Bool) (op lo mid hi : Byte)
    (rest : List Byte) : ∃ sh i, mapEntry rows op = some sh ∧
      sh.build m x (lo :: mid :: hi :: rest) = some (i, (lo :: mid :: hi :: rest).drop (sh.operands m x)) ∧
      i.isAudio = audio ∧ i.wf = true ∧ i.fits m x = true ∧
      encode i = (op :: lo :: mid :: hi :: rest).take (sh.operands m x + 1) := by
  obtain ⟨sh, hsh, hv⟩ := h op
  obtain ⟨v, hbuild, hfits, hbytes⟩ := shape_build sh m x lo mid hi rest
  have he := hv v
  exact ⟨sh, sh.instr v, hsh, hbuild, he.isAudio, he.wf, (he.fits m x).trans hfits,
    by rw [he.encode_eq, hbytes, List.take_succ_cons]⟩

/-! ## The obligations -/

/-- Settles O1, by cases on the instruction. -/
theorem roundTrip : Obligations.RoundTrip := RoundTrip.every

/-- Settles O2: every entry of both maps is checked against the encoder for an arbitrary operand, and any three bytes hold one. -/
theorem everyOpcodeDecodes : Obligations.EveryOpcodeDecodes := by
  intro op b1 b2 b3 rest m x
  constructor
  · obtain ⟨sh, i, hsh, hbuild, hi⟩ := mainRows_encode.build m x op b1 b2 b3 rest
    refine ⟨i, sh.operands m x, sh.operands_le_three m x, ?_, hi⟩
    rw [decodeMain, mainShape, hsh]
    exact hbuild
  · obtain ⟨sh, i, hsh, hbuild, haudio, hwf, -, hencode⟩ := audioRows_encode.build true true op b1 b2 b3 rest
    refine ⟨i, sh.operands true true, audioRows_operands_le_two op sh hsh, ?_, haudio, hwf, hencode⟩
    rw [decodeAudio, audioShape, hsh]
    exact hbuild

/-- Settles O3: each word is read through its entry of the map. -/
theorem decodedWords : Obligations.DecodedWords :=
  ⟨rfl, rfl, rfl, rfl, rfl, rfl, rfl, rfl, rfl, rfl, rfl, rfl, rfl, rfl, rfl⟩

end Sys2Proof.Proofs

/-! # PROOFS. The end of an instruction, its registers and its stores (R14, R15, R211, R400, R1070) -/

namespace Sys2Proof.Proofs

open Sys2Proof Sys2Proof.Machine Sys2Proof.Laws

/-! ## Registers and flags -/

/-- At 8 bits a write of the accumulator replaces its low byte (R14, R100). -/
theorem mkWord_hi_lo_eq_masks (c v : Word) : mkWord (hi c) (lo v) = (c &&& 0xFF00) ||| (v &&& 0x00FF) := by
  have hmasks : ∀ j < 16, (0xFF00 : Word).getLsbD j = decide (8 ≤ j) ∧ (0x00FF : Word).getLsbD j = decide (j < 8) := by decide
  refine BitVec.eq_of_getLsbD_eq fun j hj => ?_
  obtain ⟨hhigh, hlow⟩ := hmasks j hj
  rw [BitVec.getLsbD_or, BitVec.getLsbD_and, BitVec.getLsbD_and, hhigh, hlow, mkWord, BitVec.getLsbD_append, hi, lo,
    BitVec.getLsbD_extractLsb', BitVec.getLsbD_extractLsb']
  by_cases h8 : j < 8
  · simp [h8]
  · simp [h8, show j - 8 < 8 by omega, show 8 + (j - 8) = j by omega, Nat.le_of_not_lt h8]

theorem setAcc_eq (b : Cpu) (w : Width) (v : Word) : b.setAcc w v = { b with c := accAfter b.c w v } := by
  cases w with
  | w8 => exact congrArg (fun c => { b with c := c }) (mkWord_hi_lo_eq_masks b.c v)
  | w16 => rfl

/-- N and Z set on registers that agree with `p` outside the flags listed (R15). -/
theorem nzAfter_setNZ {b : Cpu} {p : Byte} {others : List Nat} (h : ∀ j, j ∉ others → b.p.getLsbD j = p.getLsbD j) (v : Word)
    (w : Width) : NzAfter p (b.setNZ v w).p v w others := by
  refine ⟨setNZ_flag v w b 7, setNZ_flag v w b 1, fun j h7 h1 hj => ?_⟩
  have hflag := setNZ_flag v w b j
  rw [if_neg h1, if_neg h7] at hflag
  exact hflag.trans (h j hj)

/-! ## The end of an instruction -/

theorem onCpu_const {u : State} {b : Cpu} (h : u.cpu = b) (g : Cpu → Cpu) : u.onCpu g = u.onCpu fun _ => g b := by
  subst h
  rfl

theorem onCpu_same {u : State} {b : Cpu} (h : u.cpu = b) : (u.onCpu fun _ => b) = u := by
  subst h
  rfl

/-- A body that leaves the registers at `b` ends the instruction with `b` and its cost (R400, R1070). -/
theorem runInstr_ended {i : Instr} {body : M Facts} {s u : State} {f : Facts} {b : Cpu}
    (h : body.run s = .ok f (u.onCpu fun _ => b)) (hcfg : u.cfg = s.cfg) :
    runInstr i body s = .next (u.ended i s.cpu f b) := by
  rw [runInstr_ok h, ← hcfg]
  rfl

/-- An instruction that reads a source operand and then updates the registers alone (R404). -/
theorem readInstr_ended {s u : State} {src : Src} {v : Word} {f : Facts} {w : Cpu → Width}
    (h : (srcValue src (w s.cpu)).run s = .ok (v, f) u) (i : Instr) (g : Width → Word → Cpu → Cpu) :
    runInstr i (do
      let w := w (← getCpu)
      let (v, facts) ← srcValue src w
      onCpu (g w v)
      return facts) s = .next (u.ended i s.cpu f (g (w s.cpu) v s.cpu)) := by
  have hbus : BusRel s u := srcValue_isBus src _ s _ u h
  refine runInstr_ended ?_ hbus.cfg
  rw [bind_ok (getCpu_run s), bind_ok h, ← onCpu_const hbus.cpu (g (w s.cpu) v)]
  rfl

/-- Where the parameter lists no cost, the default's is charged (R1070; log 5). -/
theorem instrCost_default {cfg : Config} (hcosts : cfg.cpuCosts = []) {i : Instr} {op : Byte} (hop : i.opcode? = some op)
    (b : Cpu) (f : Facts) : instrCost cfg i b f = cpuCycles op b f := by
  rw [instrCost, hop]
  simp only [cpuCost, hcosts]
  rfl

/-! ## Stores of an instruction -/

/-- A store says nothing of the registers before it or after it. -/
theorem stored_onCpu {s t : State} {l : Loc} {w : Width} {v : Word} {g : Cpu → Cpu} (h : Stored (s.onCpu g) t l w v)
    (g' : Cpu → Cpu) : Stored s (t.onCpu g') l w v := by
  obtain ⟨frame, bytes, low, high⟩ := h
  exact ⟨congrArg (State.onCpu g') frame, bytes, low, high⟩

/-- A store to writable bytes after an update of the registers, and the end of the instruction that makes it. -/
theorem store_ended {s : State} {l : Loc} {w : Width} (hm : Memory.wf s = true) (hw : s.writable l w = true) (v : Word)
    (g : Cpu → Cpu) : ∃ t, (memWrite l w v).run (s.onCpu g) = .ok () t ∧ ∀ i f b,
      Stored s (t.ended i s.cpu f b) l w v ∧ (t.ended i s.cpu f b).cpu = Cpu.charge (instrCost s.cfg i s.cpu f) b := by
  obtain ⟨t, hrun, hstored, -, -⟩ := mappedStores (s.onCpu g) l w v hm hw
  have hcfg : t.cfg = s.cfg := (memWrite_isBus l w v _ _ t hrun).cfg
  exact ⟨t, hrun, fun i f b => ⟨stored_onCpu hstored _, by rw [← hcfg]; rfl⟩⟩

/-! # PROOFS. O18: effective addresses (R403, R406 to R420) -/

/-- DirectAddr: in emulation mode with D[7:0] = 0 the offset wraps in its page (R403). -/
theorem dpLoc_eq (b : Cpu) (k : Word) :
    b.dpLoc k = if b.e = true ∧ lo b.d = 0 then .page (hi b.d) (lo k) else .bank 0 (b.d + k) := by
  simp only [Cpu.dpLoc, Bool.and_eq_true, decide_eq_true_eq]

/-- Settles O18: resolving a mode answers the locator of `State.loc?`, which is written out for each mode. -/
theorem effectiveAddresses : Obligations.EffectiveAddresses := by
  intro s o a p q b direct data
  have hdirect : ∀ k, b.dpLoc k = direct k := dpLoc_eq b
  refine ⟨rfl, rfl, rfl, rfl, rfl, ?_, ?_, ?_, rfl, fun h => ?_, fun h => ?_, fun h => ?_, fun h => ?_⟩
  · rw [← hdirect]
    rfl
  · rw [← hdirect]
    rfl
  · rw [← hdirect]
    rfl
  · rw [← hdirect] at h
    exact ⟨resolve_mapped (congrArg (Option.map _) h), resolve_mapped (congrArg (Option.map _) h)⟩
  · rw [← hdirect] at h
    exact resolve_mapped (congrArg (Option.map _) h)
  · exact ⟨resolve_mapped (congrArg (Option.map _) h), resolve_mapped (congrArg (Option.map _) h)⟩
  · exact resolve_mapped (congrArg (Option.map _) h)

/-! # PROOFS. O43: INC, DEC, the shifts and the rotates (R432, R545, R546, R551 to R555) -/

/-- `p'` is `p` but for flag `j`, which is `v`. -/
def OneFlag (j : Nat) (v : Bool) (p p' : Byte) : Prop := p'.getLsbD j = v ∧ ∀ k, k ≠ j → p'.getLsbD k = p.getLsbD k

theorem oneFlag_putBit {j : Nat} (hj : j < 8) (v : Bool) (p : Byte) : OneFlag j v p (putBit j v p) := by
  refine ⟨?_, fun k hk => ?_⟩
  · rw [putBit_getLsbD hj, if_pos rfl]
  · rw [putBit_getLsbD hj, if_neg hk]

/-- On registers `b`, the computation `f` takes each value `v` of width w to `(g v).1` and does nothing but make C `(g v).2`. -/
def Computes (f : Width → Word → M Word) (w : Width) (b : Cpu) (g : Word → Word × Bool) : Prop :=
  ∀ v (t : State), t.cpu = b → ∃ q, (f w v).run t = .ok (g v).1 (t.onCpu fun b => { b with p := q }) ∧ OneFlag 0 (g v).2 b.p q

/-- A computation that leaves the flags alone keeps C (R545, R546). -/
theorem computes_pure (w : Width) (b : Cpu) (r : Width → Word → Word) :
    Computes (fun w v => return r w v) w b fun v => (r w v, b.flag fC) := by
  rintro v t rfl
  exact ⟨t.cpu.p, rfl, rfl, fun _ _ => rfl⟩

/-- A computation that reads C and sets it (R551 to R554). -/
theorem computes_carry {f : Width → Word → M Word} {w : Width} {b : Cpu} {g : Word → Word × Bool}
    (h : ∀ v (t : State), t.cpu = b → (f w v).run t = .ok (g v).1 (t.onCpu (·.setFlag fC (g v).2))) : Computes f w b g := by
  rintro v t rfl
  exact ⟨putBit fC (g v).2 t.cpu.p, h v t rfl, oneFlag_putBit (by decide) _ _⟩

/-- N and Z set on top of a carry already set (R15, R551). -/
theorem nz_after_carry {b : Cpu} {q : Byte} {c : Bool} (hq : OneFlag 0 c b.p q) (v : Word) (w : Width) :
    NzAfter b.p (Cpu.setNZ { b with p := q } v w).p v w [0] ∧ (Cpu.setNZ { b with p := q } v w).p.getLsbD 0 = c := by
  obtain ⟨hcarry, hrest⟩ := hq
  refine ⟨nzAfter_setNZ (fun j hj => hrest j (by simpa using hj)) _ _, ?_⟩
  exact (setNZ_flag _ _ _ 0).trans hcarry

section Modify

variable {s : State} {f : Width → Word → M Word} {g : Word → Word × Bool} {i : Instr} {m : AddrMode} {l : Loc} {x : Bool} {v : Word}

/-- On the accumulator (R421). -/
theorem modify_acc (hf : Computes f s.cpu.mW s.cpu g) : ∃ q,
    runInstr i (modifyOperand .acc f) s = .next (s.ended i s.cpu Facts.plain
      { s.cpu with c := accAfter s.cpu.c s.cpu.mW (g (s.cpu.acc s.cpu.mW)).1, p := q }) ∧
    NzAfter s.cpu.p q (g (s.cpu.acc s.cpu.mW)).1 s.cpu.mW [0] ∧ q.getLsbD 0 = (g (s.cpu.acc s.cpu.mW)).2 := by
  obtain ⟨q, hrun, hq⟩ := hf (s.cpu.acc s.cpu.mW) s rfl
  refine ⟨_, runInstr_ended ?_ rfl, nz_after_carry hq _ _⟩
  simp only [modifyOperand]
  rw [bind_ok (getCpu_run s), bind_ok hrun, EStateM.run_bind, onCpu_run]
  simp only [setAcc_eq]
  rfl

/-- Through the bus: one read, C, one write of the result at the same locator, then N and Z (R432). -/
theorem modify_bus {s₁ s₂ : State} (hf : Computes f s.cpu.mW s.cpu g) (hl : (resolve m).run s = .ok (l, x) s₁)
    (hv : (memRead l s.cpu.mW).run s₁ = .ok v s₂) : ∃ q₁ q, OneFlag 0 (g v).2 s.cpu.p q₁ ∧
      NzAfter s.cpu.p q (g v).1 s.cpu.mW [0] ∧ q.getLsbD 0 = (g v).2 ∧
      ∀ u, (memWrite l s.cpu.mW (g v).1).run (s₂.onCpu fun b => { b with p := q₁ }) = .ok () u →
        runInstr i (modifyOperand (.mem m) f) s = .next (u.ended i s.cpu (Facts.index x) { s.cpu with p := q }) := by
  have hbus : BusRel s s₂ := (resolve_isBus m s _ s₁ hl).trans (memRead_isBus l _ s₁ v s₂ hv)
  obtain ⟨q₁, hrun, hq⟩ := hf v s₂ hbus.cpu
  obtain ⟨hnz, hcarry⟩ := nz_after_carry hq (g v).1 s.cpu.mW
  refine ⟨q₁, _, hq, hnz, hcarry, fun u hu => ?_⟩
  have hwrite : BusRel (s₂.onCpu fun b => { b with p := q₁ }) u := memWrite_isBus l _ _ _ _ u hu
  have hcpu : u.cpu = { s.cpu with p := q₁ } := by rw [hwrite.cpu, onCpu_cpu, hbus.cpu]
  refine runInstr_ended ?_ (hwrite.cfg.trans hbus.cfg)
  simp only [modifyOperand]
  rw [bind_ok (getCpu_run s), bind_ok hl, bind_ok hv, bind_ok hrun, bind_ok hu, EStateM.run_bind, onCpu_run, onCpu_const hcpu]
  rfl

/-- In mapped memory. -/
theorem modify_mapped (hf : Computes f s.cpu.mW s.cpu g) (hm : Memory.wf s = true) (hl : s.loc? m = some (l, x))
    (hv : s.word? l s.cpu.mW = some v) (hw : s.writable l s.cpu.mW = true) : ∃ t q,
      runInstr i (modifyOperand (.mem m) f) s = .next t ∧ Stored s t l s.cpu.mW (g v).1 ∧
      t.cpu = Cpu.charge (instrCost s.cfg i s.cpu (Facts.index x)) { s.cpu with p := q } ∧
      NzAfter s.cpu.p q (g v).1 s.cpu.mW [0] ∧ q.getLsbD 0 = (g v).2 := by
  obtain ⟨q₁, q, -, hnz, hcarry, hend⟩ := modify_bus (i := i) hf (resolve_mapped hl) (memRead_mapped hv)
  obtain ⟨u, hu, hstored⟩ := store_ended hm hw (g v).1 fun b => { b with p := q₁ }
  obtain ⟨hst, hcpu⟩ := hstored i (Facts.index x) { s.cpu with p := q }
  exact ⟨_, q, hend u hu, hst, hcpu, hnz, hcarry⟩

end Modify

/-- Settles O43: each of the six instructions reads, computes and writes back in one way, and differs in the computation. -/
theorem readModifyWrite : Obligations.ReadModifyWrite := by
  intro s w c e he
  obtain ⟨f, hexec, hf⟩ : ∃ f : Width → Word → M Word,
      (∀ op, exec (e.1 op) s = runInstr (e.1 op) (modifyOperand op f) s) ∧ Computes f w s.cpu e.2 := by
    simp only [List.mem_cons, List.not_mem_nil, or_false] at he
    rcases he with rfl | rfl | rfl | rfl | rfl | rfl
    · exact ⟨_, fun _ => rfl, computes_pure w s.cpu fun w v => (v + 1) &&& w.mask⟩
    · exact ⟨_, fun _ => rfl, computes_pure w s.cpu fun w v => (v - 1) &&& w.mask⟩
    · exact ⟨_, fun _ => rfl, computes_carry fun _ _ _ => rfl⟩
    · exact ⟨_, fun _ => rfl, computes_carry fun _ _ _ => rfl⟩
    · exact ⟨_, fun _ => rfl, computes_carry fun v t ht => by rw [bind_ok (getCpu_run t), ht]; rfl⟩
    · exact ⟨_, fun _ => rfl, computes_carry fun v t ht => by rw [bind_ok (getCpu_run t), ht]; rfl⟩
  simp only [hexec]
  refine ⟨modify_acc hf, fun m l x v hm hl hv hw => modify_mapped hf hm hl hv hw, fun m l x v s₁ s₂ hl hv => ?_⟩
  obtain ⟨q₁, q, ⟨hcarry₁, hrest⟩, hend⟩ := modify_bus hf hl hv
  exact ⟨q₁, q, hcarry₁, hrest, hend⟩

/-! # PROOFS. O44: TSB and TRB (R432, R543, R544) -/

section TestAndChange

variable {s : State} {i : Instr} {m : AddrMode} {l : Loc} {x : Bool} {v : Word} (change : Width → Word → Word → Word)

/-- Through the bus: one read, Z, one write of the changed value at the same locator (R432). -/
theorem testAndChange_bus {s₁ s₂ : State} (hl : (resolve m).run s = .ok (l, x) s₁)
    (hv : (memRead l s.cpu.mW).run s₁ = .ok v s₂) :
    ∃ q, OneFlag 1 (decide (s.cpu.acc s.cpu.mW &&& v = 0)) s.cpu.p q ∧
      ∀ u, (memWrite l s.cpu.mW (change s.cpu.mW v (s.cpu.acc s.cpu.mW))).run (s₂.onCpu fun b => { b with p := q }) = .ok () u →
        runInstr i (testAndChange m change) s = .next (u.ended i s.cpu (Facts.index x) { s.cpu with p := q }) := by
  have hbus : BusRel s s₂ := (resolve_isBus m s _ s₁ hl).trans (memRead_isBus l _ s₁ v s₂ hv)
  let q := putBit fZ (decide (s.cpu.acc s.cpu.mW &&& v = 0)) s.cpu.p
  refine ⟨q, oneFlag_putBit (by decide) _ _, fun u hu => ?_⟩
  have hwrite : BusRel (s₂.onCpu fun b => { b with p := q }) u := memWrite_isBus l _ _ _ _ u hu
  have hcpu : u.cpu = { s.cpu with p := q } := by rw [hwrite.cpu, onCpu_cpu, hbus.cpu]
  rw [onCpu_const hbus.cpu] at hu
  refine runInstr_ended ?_ (hwrite.cfg.trans hbus.cfg)
  simp only [testAndChange]
  rw [bind_ok (getCpu_run s), bind_ok hl, bind_ok hv, EStateM.run_bind, onCpu_run, onCpu_const hbus.cpu]
  exact (bind_ok hu).trans (congrArg (EStateM.Result.ok _) (onCpu_same hcpu).symm)

/-- In mapped memory. -/
theorem testAndChange_mapped (hm : Memory.wf s = true) (hl : s.loc? m = some (l, x)) (hv : s.word? l s.cpu.mW = some v)
    (hw : s.writable l s.cpu.mW = true) : ∃ t q, runInstr i (testAndChange m change) s = .next t ∧
      Stored s t l s.cpu.mW (change s.cpu.mW v (s.cpu.acc s.cpu.mW)) ∧
      t.cpu = Cpu.charge (instrCost s.cfg i s.cpu (Facts.index x)) { s.cpu with p := q } ∧
      OneFlag 1 (decide (s.cpu.acc s.cpu.mW &&& v = 0)) s.cpu.p q := by
  obtain ⟨q, hq, hend⟩ := testAndChange_bus (i := i) change (resolve_mapped hl) (memRead_mapped hv)
  obtain ⟨u, hu, hstored⟩ := store_ended hm hw (change s.cpu.mW v (s.cpu.acc s.cpu.mW)) fun b => { b with p := q }
  obtain ⟨hst, hcpu⟩ := hstored i (Facts.index x) { s.cpu with p := q }
  exact ⟨_, q, hend u hu, hst, hcpu, hq⟩

end TestAndChange

/-- Settles O44: both instructions test, then write back a changed value, and differ in the change. -/
theorem testAndSetBits : Obligations.TestAndSetBits := by
  intro s m l x v w a e he
  obtain ⟨change, hexec, hvalue⟩ : ∃ change : Width → Word → Word → Word,
      exec e.1 s = runInstr e.1 (testAndChange m change) s ∧ e.2 = change w v a := by
    simp only [List.mem_cons, List.not_mem_nil, or_false] at he
    rcases he with rfl | rfl
    · exact ⟨fun _ v a => v ||| a, rfl, rfl⟩
    · exact ⟨fun w v a => w.trunc (v &&& ~~~a), rfl, rfl⟩
  rw [hexec, hvalue]
  refine ⟨testAndChange_mapped change, fun s₁ s₂ hl hv => ?_⟩
  obtain ⟨q, ⟨hzero, hrest⟩, hend⟩ := testAndChange_bus change hl hv
  exact ⟨q, hzero, hrest, hend⟩

/-! # PROOFS. O7 and O9: fetching, and the step it begins (R400, R401, R402, R635, R830, R851, R852, R855) -/

/-! ## Code bytes -/

/-- An instruction takes its operand bytes and leaves the rest (R301, R303). -/
theorem build_length {sh : Shape} {m x : Bool} {bs rest : List Byte} {i : Instr}
    (h : sh.build m x bs = some (i, rest)) : bs.length = sh.operands m x + rest.length := by
  unfold Shape.build at h
  split at h
  case h_6 | h_7 =>
    split_ifs at h with hflag
    · cases h
      simp [Shape.operands, hflag, Nat.add_comm]
    · split at h
      · cases h
        simp only [Shape.operands, hflag, List.length_cons, Bool.false_eq_true, if_false]
        omega
      · cases h
  case h_9 => cases h
  all_goals
    cases h
    simp only [Shape.operands, List.length_cons]
    omega

/-- The operand bytes a fetch reads are as many as the instruction they make up has. -/
theorem decodeMain_operands {m x : Bool} {op : Byte} {bs : List Byte} {i : Instr}
    (h : decodeMain m x (op :: bs) = some (i, [])) : ((mainShape op).map (·.operands m x)).getD 0 = bs.length := by
  obtain ⟨sh, hsh, hb⟩ := Option.bind_eq_some_iff.1 h
  rw [hsh, build_length hb]
  rfl

theorem code?_cons {s : State} {bank : Byte} {n : Nat} {off : Word} {v : Byte} {vs : List Byte}
    (h : s.code? bank (n + 1) off = some (v :: vs)) :
    s.byte? (mkAddr bank off) = some v ∧ s.code? bank n (off + 1) = some vs := by
  obtain ⟨v', hv, hvs⟩ := Option.bind_eq_some_iff.1 h
  obtain ⟨vs', hvs', heq⟩ := Option.map_eq_some_iff.1 hvs
  cases heq
  exact ⟨hv, hvs'⟩

theorem byte?_onCpu (s : State) (g : Cpu → Cpu) (a : Addr) : (s.onCpu g).byte? a = s.byte? a := rfl

theorem code?_onCpu (s : State) (g : Cpu → Cpu) (bank : Byte) (n : Nat) (off : Word) :
    (s.onCpu g).code? bank n off = s.code? bank n off := by
  induction n generalizing off with
  | zero => rfl
  | succ n ih => simp only [State.code?, byte?_onCpu, ih]

/-! ## Fetching -/

theorem fetchByte_ok {s t : State} {v : Byte} (h : (read8 (mkAddr s.cpu.pbr s.cpu.pc)).run s = .ok v t) :
    fetchByte.run s = .ok v (t.onCpu fun b => { b with pc := b.pc + 1 }) := by
  rw [fetchByte, bind_ok (getCpu_run s), bind_ok h]
  rfl

/-- PC past one byte and then past `n` more. -/
theorem onCpu_pc_succ (s : State) (n : Nat) :
    (s.onCpu fun b => { b with pc := b.pc + 1 }).onCpu (fun b => { b with pc := b.pc + BitVec.ofNat 16 n }) =
      s.onCpu fun b => { b with pc := b.pc + BitVec.ofNat 16 (n + 1) } := by
  simp only [onCpu_onCpu, BitVec.add_assoc, Nat.add_comm n 1, BitVec.ofNat_add]
  rfl

/-- Fetches of mapped bytes read them and move PC past them, wrapping in the bank (R401). -/
theorem fetchN_mapped {s : State} {vs : List Byte} (h : s.code? s.cpu.pbr vs.length s.cpu.pc = some vs) :
    (fetchN vs.length).run s = .ok vs (s.onCpu fun b => { b with pc := b.pc + BitVec.ofNat 16 vs.length }) := by
  induction vs generalizing s with
  | nil =>
    rw [onCpu_const rfl, List.length_nil, BitVec.add_zero]
    rfl
  | cons v vs ih =>
    obtain ⟨hv, hvs⟩ := code?_cons h
    rw [List.length_cons, fetchN, bind_ok (fetchByte_ok (read8_mapped hv)), bind_ok (ih ?_)]
    · rw [onCpu_pc_succ]
      rfl
    · rw [code?_onCpu]
      exact hvs

/-- Where the bytes at PBR:PC are mapped and decode to an instruction, a fetch answers it, with PC past its bytes (R400, R402). -/
theorem fetchInstr_mapped {s : State} {op : Byte} {bs : List Byte} {i : Instr}
    (hcode : s.code? s.cpu.pbr (bs.length + 1) s.cpu.pc = some (op :: bs)) (hop : op ∉ s.cfg.unimplOps)
    (hdec : decodeMain (s.cpu.flag fM) (s.cpu.flag fX) (op :: bs) = some (i, [])) :
    fetchInstr.run s = .ok i (s.onCpu fun b => { b with pc := b.pc + BitVec.ofNat 16 (bs.length + 1) }) := by
  obtain ⟨hv, hvs⟩ := code?_cons hcode
  have hcontains : ¬s.cfg.unimplOps.contains op = true := by simpa using hop
  rw [fetchInstr, EStateM.run_bind, EStateM.run_get]
  dsimp only
  rw [bind_ok (fetchByte_ok (read8_mapped hv)), if_neg hcontains, decodeMain_operands hdec]
  rw [bind_ok (fetchN_mapped (by rw [code?_onCpu]; exact hvs)), hdec, onCpu_pc_succ]
  rfl

/-- An unimplemented opcode stops a fetch with the registers as they were and the access that read it made (R401, R635, R830; log 11). -/
theorem fetchInstr_unimplemented {s t : State} {op : Byte} (h : (read8 (mkAddr s.cpu.pbr s.cpu.pc)).run s = .ok op t)
    (hop : op ∈ s.cfg.unimplOps) :
    fetchInstr.run s = .error (.fatal (.unimplementedOpcode s.cpu.pbr s.cpu.pc op)) t := by
  have hcpu : t.cpu = s.cpu := (read8_isBus _ s op t h).cpu
  have hcontains : s.cfg.unimplOps.contains op = true := by simpa using hop
  rw [fetchInstr, EStateM.run_bind, EStateM.run_get]
  dsimp only
  rw [bind_ok (fetchByte_ok h), if_pos hcontains, EStateM.run_bind, onCpu_run]
  rw [onCpu_onCpu, onCpu_const hcpu]
  exact congrArg (EStateM.Result.error _) (onCpu_same hcpu)

/-! ## The step -/

section Running

variable {s : State} (hfatal : s.fatal = none) (hreset : s.resetDone = true) (hstop : s.cpu.stopped = false)
  (hwait : s.cpu.waiting = false)

include hfatal hreset hstop hwait

/-- A running CPU runs the instruction its fetch answers, then time passes and the due events are handled (R400, R851). -/
theorem step_fetched {u v : State} {i : Instr} (h : fetchInstr.run s = .ok i u) (hexec : exec i u = .next v) :
    step s = settle v := by
  simp only [step, hfatal, hreset, hstop, hwait, h, hexec, Bool.not_true, Bool.or_self, Bool.false_eq_true, if_false]

/-- An instruction that faults ends the step (R830). -/
theorem step_fault {u : State} {i : Instr} {f : Fault} (h : fetchInstr.run s = .ok i u) (hexec : exec i u = .fault f) :
    step s = .fault f := by
  simp only [step, hfatal, hreset, hstop, hwait, h, hexec, Bool.not_true, Bool.or_self, Bool.false_eq_true, if_false]

/-- A step of a running CPU whose fetch is fatal ends in the state of the fetch (R830). -/
theorem step_fetchFatal {u : State} {f : Fatal} (h : fetchInstr.run s = .error (.fatal f) u) :
    step s = .fault (.fatal f (u.setFatal f)) := by
  simp only [step, hfatal, hreset, hstop, hwait, h, Bool.not_true, Bool.or_self, Bool.false_eq_true, if_false]

end Running

/-- Where no event is due, processing the events does nothing (R852). -/
theorem runEvents_none_due {s : State} (h : ∀ e ∈ s.sched.queue, s.sched.master < e.ts) : runEvents.run s = .ok () s := by
  obtain ⟨n, hfuel⟩ := Nat.exists_eq_add_of_le' (show 1 ≤ eventFuel s by unfold eventFuel; omega)
  rw [runEvents, EStateM.run_bind, EStateM.run_get]
  dsimp only
  rw [hfuel, processEvents, EStateM.run_bind, EStateM.run_get]
  dsimp only
  split
  case h_1 => rfl
  case h_2 e rest hq =>
    have hdue : ¬e.ts ≤ s.sched.master := Nat.not_le.2 (h e (hq ▸ List.mem_cons_self))
    rw [if_neg hdue]
    rfl

/-- Settles O7: the fetch reads the mapped bytes and the step goes on with the instruction they decode to. -/
theorem stepRunsDecodedInstruction : Obligations.StepRunsDecodedInstruction := by
  intro s i op bs hfatal hreset hstop hwait hcode hop hdec
  have hfetch := fetchInstr_mapped hcode hop hdec
  refine ⟨fun u hu => ?_, fun f hf => step_fault hfatal hreset hstop hwait hfetch hf⟩
  have hsettle : step s = settle u := step_fetched hfatal hreset hstop hwait hfetch hu
  refine ⟨hsettle, fun hnone => ?_⟩
  have hrun : runEvents.run (convertCycles u) = .ok () (convertCycles u) := runEvents_none_due hnone
  rw [hsettle, settle, hrun]
  rfl

/-- Settles O9: the fetch stops at the opcode, and a byte of memory is read without effect. -/
theorem unimplementedOpcode : Obligations.UnimplementedOpcode := by
  intro s op hfatal hreset hstop hwait hop
  have hdevice : ∀ t, (read8 (mkAddr s.cpu.pbr s.cpu.pc)).run s = .ok op t → step s =
      .fault (.fatal (.unimplementedOpcode s.cpu.pbr s.cpu.pc op)
        { t with fatal := some (.unimplementedOpcode s.cpu.pbr s.cpu.pc op) }) := fun t h =>
    step_fetchFatal hfatal hreset hstop hwait (fetchInstr_unimplemented h hop)
  exact ⟨fun h => hdevice s (read8_mapped h), fun t h => ⟨(read8_isBus _ s op t h).cpu, hdevice t h⟩⟩

/-! # PROOFS. O30: loads (R404, R450 to R452) -/

/-- Settles O30: each load reads its operand, then writes its register and the flags of the value. -/
theorem loads : Obligations.Loads := by
  intro s u src v f
  have hnz := nzAfter_setNZ (b := s.cpu) (others := []) (fun _ _ => rfl) v
  refine ⟨fun h => ⟨_, (readInstr_ended h (.lda src) fun w v b => (b.setAcc w v).setNZ v w).trans ?_, hnz _⟩, fun h => ⟨_, ?_, hnz _⟩,
    fun h => ⟨_, ?_, hnz _⟩⟩
  · rw [setAcc_eq]
    rfl
  · exact readInstr_ended h (.ldx src) fun w v b => (b.setX w v).setNZ v w
  · exact readInstr_ended h (.ldy src) fun w v b => (b.setY w v).setNZ v w

/-! # PROOFS. O34: block moves (R430, R470, R471) -/

/-- C has passed 0 when it was 0 (R470). -/
theorem blockStep_eq (b : Cpu) (dst : Byte) (step : Word) :
    b.blockStep dst step =
      { b with
        dbr := dst, x := (b.x + step) &&& b.xW.mask, y := (b.y + step) &&& b.xW.mask, c := b.c - 1
        pc := if b.c = 0 then b.pc else b.pc - 3 } := by
  have hpassed : b.c - 1 = 0xFFFF ↔ b.c = 0 := by bv_omega
  simp only [Cpu.blockStep, hpassed]
  rfl

/-- One byte of a block move, and the end of the instruction (R430). -/
theorem blockMove_ended {s u : State} {dst src v : Byte} (hv : s.byte? (mkAddr src s.cpu.x) = some v)
    (hu : s.poke? (mkAddr dst s.cpu.y) v = some u) (i : Instr) (step : Word) :
    runInstr i (blockMove dst src step) s = .next (u.ended i s.cpu Facts.plain (s.cpu.blockStep dst step)) := by
  refine runInstr_ended ?_ (poke?_cfg hu)
  rw [blockMove, bind_ok (getCpu_run s), bind_ok (read8_mapped hv), bind_ok (write8_mapped hu), EStateM.run_bind, onCpu_run,
    onCpu_const (poke?_cpu hu)]
  rfl

/-- Settles O34: MVN steps up by 1 and MVP down by 1, which is a step up by 0xFFFF. -/
theorem blockMoves : Obligations.BlockMoves := by
  intro s u dst src v hv hu
  have hup := blockMove_ended hv hu (.mvn dst src) 1
  have hdown := blockMove_ended hv hu (.mvp dst src) 0xFFFF
  have hminus (k : Word) : k + 0xFFFF = k - 1 := by bv_omega
  rw [blockStep_eq] at hup hdown
  rw [hminus, hminus] at hdown
  exact ⟨hup, hdown⟩

/-! # PROOFS. O45 and O46: branches and jumps (R423 to R429, R580 to R595, R1070) -/

/-- A branch, taken or not (R423, R424). -/
theorem branchTo_ended (i : Instr) (cond : Cpu → Bool) (target : Word → Word) (s : State) :
    branchTo i cond target s = .next (s.ended i s.cpu
      ⟨false, cond s.cpu, decide (hi s.cpu.pc ≠ hi (target s.cpu.pc))⟩
      { s.cpu with pc := if cond s.cpu then target s.cpu.pc else s.cpu.pc }) := by
  refine runInstr_ended ?_ rfl
  rw [bind_ok (getCpu_run s)]
  cases hc : cond s.cpu with
  | false => rfl
  | true => rfl

/-- The default cost of a conditional branch (R580, R1070). -/
theorem cpuCycles_branch {op : Byte} (hrow : cycleRow op = ⟨2, [.taken, .takenPage]⟩) (b : Cpu) (taken : Bool) (crosses : Prop)
    [Decidable crosses] : cpuCycles op b ⟨false, taken, decide crosses⟩ =
      if taken then (if b.e = true ∧ crosses then 4 else 3) else 2 := by
  simp only [cpuCycles, hrow, List.map_cons, List.map_nil, List.sum_cons, List.sum_nil, addedCost]
  cases taken
  · rfl
  · by_cases hpage : b.e = true ∧ crosses
    · simp [hpage]
    · simp [hpage]

/-- The default cost of BRA (R589, R1070). -/
theorem cpuCycles_bra (b : Cpu) (crosses : Prop) [Decidable crosses] :
    cpuCycles 0x80 b ⟨false, true, decide crosses⟩ = if b.e = true ∧ crosses then 4 else 3 := by
  have hrow : cycleRow 0x80 = ⟨3, [.page]⟩ := rfl
  simp only [cpuCycles, hrow, List.map_cons, List.map_nil, List.sum_cons, List.sum_nil, addedCost, Bool.and_eq_true,
    decide_eq_true_eq]
  by_cases hpage : b.e = true ∧ crosses
  · simp [hpage]
  · simp [hpage]

/-- Settles O45: each branch is `branchTo` under its condition; the nine differ in the flag they test and the row of R1070. -/
theorem branches : Obligations.Branches := by
  intro s r b target e he f
  obtain ⟨cond, op, hexec, hcond, hop, hcost⟩ : ∃ (cond : Cpu → Bool) (op : Byte),
      exec e.1 s = branchInstr e.1 cond r s ∧ e.2 = cond b ∧ e.1.opcode? = some op ∧
        (cycleRow op = ⟨2, [.taken, .takenPage]⟩ ∨ op = 0x80 ∧ e.2 = true) := by
    simp only [List.mem_cons, List.not_mem_nil, or_false] at he
    rcases he with rfl | rfl | rfl | rfl | rfl | rfl | rfl | rfl | rfl
    · exact ⟨fun b => !b.flag fN, _, rfl, rfl, rfl, .inl rfl⟩
    · exact ⟨fun b => b.flag fN, _, rfl, rfl, rfl, .inl rfl⟩
    · exact ⟨fun b => !b.flag fV, _, rfl, rfl, rfl, .inl rfl⟩
    · exact ⟨fun b => b.flag fV, _, rfl, rfl, rfl, .inl rfl⟩
    · exact ⟨fun b => !b.flag fC, _, rfl, rfl, rfl, .inl rfl⟩
    · exact ⟨fun b => b.flag fC, _, rfl, rfl, rfl, .inl rfl⟩
    · exact ⟨fun b => !b.flag fZ, _, rfl, rfl, rfl, .inl rfl⟩
    · exact ⟨fun b => b.flag fZ, _, rfl, rfl, rfl, .inl rfl⟩
    · exact ⟨fun _ => true, _, rfl, rfl, rfl, .inr ⟨rfl, rfl⟩⟩
  refine ⟨?_, fun hcosts => ?_⟩
  · have hrun := branchTo_ended e.1 cond (fun pc => relTarget pc r) s
    rw [← hcond] at hrun
    exact hexec.trans hrun
  · rw [instrCost_default hcosts hop]
    rcases hcost with hrow | ⟨rfl, htaken⟩
    · exact cpuCycles_branch hrow b e.2 (hi b.pc ≠ hi target)
    · rw [if_pos htaken, ← cpuCycles_bra, ← htaken]

/-- A jump to the address a pointer read answers (R426, R427). -/
theorem jumpThrough_ended {s : State} {i : Instr} {pointer : M Word} {t : Word} (h : pointer.run s = .ok t s) :
    runInstr i (do
      jumpTo (← pointer)
      return Facts.plain) s = .next (s.ended i s.cpu Facts.plain { s.cpu with pc := t }) := by
  refine runInstr_ended ?_ rfl
  rw [bind_ok h]
  rfl

/-- Settles O46: BRL is a branch that is always taken, and each indirect jump goes where its mapped pointer says. -/
theorem jumps : Obligations.Jumps := by
  intro s a q b f
  refine ⟨branchTo_ended (.brl a) (fun _ => true) (· + a) s, fun hcosts => ?_, rfl, rfl, fun t h => ?_, fun t h => ?_, fun t h => ?_⟩
  · exact instrCost_default hcosts (op := 0x82) rfl b f
  · exact jumpThrough_ended (memRead_mapped h)
  · exact jumpThrough_ended (pointer := absIndexedIndirect a) (memRead_mapped h)
  · refine runInstr_ended ?_ rfl
    rw [absIndirectLong, bind_ok (memRead24_mapped h)]
    rfl

end Sys2Proof.Proofs

namespace Sys2Proof.Proofs

open Sys2Proof Sys2Proof.Machine Sys2Proof.Laws

/-! # PROOFS. O32: stores (R403, R453 to R456) -/

/-- The one form of the meanings of STA, STX, STY and STZ: a value taken from the registers, stored at a width (R453 to R456). -/
def storeInstr (i : Instr) (m : AddrMode) (w : Cpu → Width) (v : Cpu → Word) (s : State) : Host.Outcome State Fault Refusal :=
  runInstr i (do
    let b ← getCpu
    storeValue m (w b) (v b)) s

section StoreInstr

variable {s : State} {m : AddrMode} {l : Loc} {x : Bool} (i : Instr) (w : Cpu → Width) (v : Cpu → Word)

/-- Through the bus: the address, one write of a register's value at a width, and no register changed (R404). -/
theorem storeInstr_ended {s₁ u : State} (hl : (resolve m).run s = .ok (l, x) s₁)
    (hw : (memWrite l (w s.cpu) (v s.cpu)).run s₁ = .ok () u) :
    storeInstr i m w v s = .next (u.ended i s.cpu (Facts.index x) s.cpu) := by
  have hbus : BusRel s u := (resolve_isBus m s _ s₁ hl).trans (memWrite_isBus l _ _ s₁ _ u hw)
  refine runInstr_ended ?_ hbus.cfg
  rw [bind_ok (getCpu_run s), storeValue, bind_ok hl, bind_ok hw, onCpu_same hbus.cpu]
  rfl

/-- In mapped memory. -/
theorem storeInstr_mapped (hm : Memory.wf s = true) (hl : s.loc? m = some (l, x)) (hw : s.writable l (w s.cpu) = true) :
    ∃ t, storeInstr i m w v s = .next t ∧ Stored s t l (w s.cpu) (v s.cpu) ∧
      t.cpu = Cpu.charge (instrCost s.cfg i s.cpu (Facts.index x)) s.cpu := by
  obtain ⟨u, hu, hstored⟩ := store_ended hm hw (v s.cpu) id
  exact ⟨_, storeInstr_ended i w v (resolve_mapped hl) hu, hstored i (Facts.index x) s.cpu⟩

end StoreInstr

/-- Settles O32: the four stores differ in the width and the value they take from the registers. -/
theorem stores : Obligations.Stores := by
  intro s m l x cases e he
  obtain ⟨w, v, hexec, hwidth, hvalue⟩ : ∃ (w : Cpu → Width) (v : Cpu → Word),
      exec e.1 s = storeInstr e.1 m w v s ∧ e.2.1 = w s.cpu ∧ e.2.2 = v s.cpu := by
    simp only [cases, List.mem_cons, List.not_mem_nil, or_false] at he
    rcases he with rfl | rfl | rfl | rfl
    · exact ⟨Cpu.mW, fun b => b.acc b.mW, rfl, rfl, rfl⟩
    · exact ⟨Cpu.xW, Cpu.x, rfl, rfl, rfl⟩
    · exact ⟨Cpu.xW, Cpu.y, rfl, rfl, rfl⟩
    · exact ⟨Cpu.mW, fun _ => 0, rfl, rfl, rfl⟩
  rw [hexec, hwidth, hvalue]
  exact ⟨storeInstr_mapped e.1 w v, fun _ _ => storeInstr_ended e.1 w v⟩

/-! # PROOFS. O33: transfers, exchanges and counting (R422, R457 to R469, R547 to R550) -/

/-- An instruction of registers alone always completes (R422). -/
theorem regInstr_ended (i : Instr) (f : Cpu → Cpu) (s : State) :
    regInstr i f s = .next (s.ended i s.cpu Facts.plain (f s.cpu)) :=
  runInstr_ended rfl rfl

/-- N and Z set on registers `after p` that hold the flags `p`: some flags q take the place of p, and nothing else changes (R15). -/
theorem setNZ_after {after : Byte → Cpu} {p : Byte} (h : ∀ q, { after p with p := q } = after q) (v : Word) (w : Width) :
    ∃ q, (after p).setNZ v w = after q ∧ NzAfter p q v w [] := by
  have hp : (after p).p = p := (congrArg Cpu.p (h p)).symm
  exact ⟨((after p).setNZ v w).p, h _, nzAfter_setNZ (fun j _ => by rw [hp]) v w⟩

/-- Settles O33: each instruction writes its register, then N and Z of the value; TXS and TCS write S alone. -/
theorem registerInstructions : Obligations.RegisterInstructions := by
  intro s b xm
  refine ⟨fun e he => ?_, regInstr_ended _ _ s, regInstr_ended _ _ s⟩
  obtain ⟨hexec, hafter⟩ : exec e.1 s = .next (s.ended e.1 b Facts.plain ((e.2.1 b.p).setNZ e.2.2.1 e.2.2.2)) ∧
      ∀ q, { e.2.1 b.p with p := q } = e.2.1 q := by
    simp only [List.mem_cons, List.not_mem_nil, or_false] at he
    rcases he with rfl | rfl | rfl | rfl | rfl | rfl | rfl | rfl | rfl | rfl | rfl | rfl | rfl | rfl | rfl
    · exact ⟨regInstr_ended _ _ s, fun _ => rfl⟩
    · exact ⟨regInstr_ended _ _ s, fun _ => rfl⟩
    · exact ⟨(regInstr_ended _ _ s).trans (by rw [setAcc_eq]), fun _ => rfl⟩
    · exact ⟨(regInstr_ended _ _ s).trans (by rw [setAcc_eq]), fun _ => rfl⟩
    all_goals exact ⟨regInstr_ended _ _ s, fun _ => rfl⟩
  obtain ⟨q, hq, hnz⟩ := setNZ_after hafter e.2.2.1 e.2.2.2
  exact ⟨q, by rw [hexec, hq], hnz⟩

end Sys2Proof.Proofs

namespace Sys2Proof.Proofs

open Sys2Proof Sys2Proof.Machine Sys2Proof.Laws

/-! # PROOFS. O36: a push, and the pull that undoes it (R500, R501) -/

/-! ## The stack pointer -/

theorem lo_sub_one (k : Word) : lo (k - 1) = lo k - 1 := by
  apply BitVec.eq_of_toNat_eq
  simp only [lo, BitVec.ofNat_eq_ofNat, BitVec.extractLsb'_toNat, BitVec.toNat_sub, BitVec.toNat_ofNat, Nat.shiftRight_zero]
  omega

/-- S after a push, written with masks (R500). -/
theorem decS_eq (b : Cpu) : b.decS = { b with s := if b.e then 0x0100 ||| ((b.s - 1) &&& 0x00FF) else b.s - 1 } := by
  have hpage : mkWord 0x01 (lo b.s - 1) = 0x0100 ||| ((b.s - 1) &&& 0x00FF) := by
    rw [← lo_sub_one]
    exact mkWord_hi_lo_eq_masks 0x0100 (b.s - 1)
  rw [Cpu.decS, hpage]

/-- A pull moves S back to where a push found it; in emulation mode because S is in page 1 (R108, R500). -/
theorem incS_decS {b : Cpu} (h : b.Ok) : b.decS.incS = b := by
  suffices hs : b.decS.incS.s = b.s from congrArg (fun k => { b with s := k }) hs
  cases he : b.e with
  | true => simp [he, ← (h.emulation he).2.2]
  | false => simp [he]

/-! ## A byte pushed -/

section PushedByte

variable {s t : State} {v : Byte} (h : s.push8? v = some t)

include h

/-- A push is one byte stored at S, and S moved down (R500). -/
theorem push8?_poke? : ∃ u, s.poke? (mkAddr 0 s.cpu.s) v = some u ∧ t = u.onCpu Cpu.decS := by
  obtain ⟨u, hu, ht⟩ := Option.map_eq_some_iff.1 h
  exact ⟨u, hu, ht.symm⟩

theorem push8?_cpu : t.cpu = s.cpu.decS := by
  obtain ⟨u, hu, rfl⟩ := push8?_poke? h
  exact congrArg Cpu.decS (poke?_cpu hu)

theorem push8?_cfg : t.cfg = s.cfg := by
  obtain ⟨u, hu, rfl⟩ := push8?_poke? h
  exact (poke?_cfg hu : u.cfg = s.cfg)

theorem memory_wf_push8? (hm : Memory.wf s = true) : Memory.wf t = true := by
  obtain ⟨u, hu, rfl⟩ := push8?_poke? h
  exact (memory_wf_poke? hm hu : Memory.wf u = true)

theorem push8?_frame : t = { s with cpu := t.cpu, wram := t.wram, sram := t.sram } := by
  obtain ⟨u, hu, rfl⟩ := push8?_poke? h
  exact congrArg (State.onCpu fun _ => u.cpu.decS) (poke?_frame hu)

theorem byte?_push8?_same (hm : Memory.wf s = true) : t.byte? (mkAddr 0 s.cpu.s) = some v := by
  obtain ⟨u, hu, rfl⟩ := push8?_poke? h
  exact (byte?_poke?_same hm hu : u.byte? _ = some v)

theorem byte?_push8?_other {a : Addr} (ha : rpage s.cfg a ≠ rpage s.cfg (mkAddr 0 s.cpu.s)) : t.byte? a = s.byte? a := by
  obtain ⟨u, hu, rfl⟩ := push8?_poke? h
  exact (byte?_poke?_other hu ha : u.byte? a = s.byte? a)

end PushedByte

/-- What a pull answers whose S a push of registers `b` has left (R500). -/
theorem pull8?_decS {t : State} {b : Cpu} {v : Byte} (hb : b.Ok) (ht : t.cpu = b.decS) (hv : t.byte? (mkAddr 0 b.s) = some v) :
    t.pull8? = some (v, { t with cpu := b }) := by
  have hback : t.cpu.incS = b := by rw [ht, incS_decS hb]
  rw [State.pull8?, State.onCpu, hback, hv]
  rfl

/-- Settles O36: a word is two bytes pushed; its pull finds the second at the first push's S, then the first, which the second push has
not touched. -/
theorem pushAndPull : Obligations.PushAndPull := by
  intro s t hm
  refine ⟨fun v h => ?_, fun v hok h hdistinct => ?_⟩
  · have hbyte := byte?_push8?_same h hm
    exact ⟨(push8?_cpu h).trans (decS_eq s.cpu), hbyte, fun a ha => byte?_push8?_other h (ha _ (List.mem_singleton_self _)),
      push8?_frame h, fun hok => pull8?_decS hok (push8?_cpu h) hbyte⟩
  · obtain ⟨u, hhigh, hlow⟩ := Option.bind_eq_some_iff.1 h
    have hcpu : u.cpu = s.cpu.decS := push8?_cpu hhigh
    have hkept {a : Addr} (ha : rpage s.cfg a ≠ rpage s.cfg (mkAddr 0 s.cpu.decS.s)) : t.byte? a = u.byte? a :=
      byte?_push8?_other hlow (by rwa [hcpu, push8?_cfg hhigh])
    have hlowByte : t.byte? (mkAddr 0 s.cpu.decS.s) = some (lo v) := hcpu ▸ byte?_push8?_same hlow (memory_wf_push8? hhigh hm)
    have hhighByte : t.byte? (mkAddr 0 s.cpu.s) = some (hi v) := (hkept hdistinct).trans (byte?_push8?_same hhigh hm)
    refine ⟨hhighByte, hlowByte, fun a ha => ?_, ?_⟩
    · exact (hkept (ha _ (by simp))).trans (byte?_push8?_other hhigh (ha _ (by simp)))
    · have hfirst := pull8?_decS hok.decS ((push8?_cpu hlow).trans (congrArg Cpu.decS hcpu)) hlowByte
      have hsecond := pull8?_decS (t := { t with cpu := s.cpu.decS }) hok rfl hhighByte
      rw [State.pull16?, hfirst, Option.bind_some, hsecond, Option.map_some, mkWord_hi_lo]

/-! # PROOFS. O35: the push instructions (R502 to R508, R515 to R517) -/

/-- An instruction that takes a value without an effect and pushes it. -/
theorem pushInstr_ended {α : Type} {s u : State} {value : M α} {push : α → M Unit} {a : α} (ha : value.run s = .ok a s)
    (hrun : (push a).run s = .ok () u) (hop : OpAt s (push a)) (i : Instr) :
    runInstr i (do
      push (← value)
      return Facts.plain) s = .next (u.ended i s.cpu Facts.plain u.cpu) := by
  refine runInstr_ended ?_ (hop () u hrun).cfg
  rw [bind_ok ha, bind_ok hrun, onCpu_same rfl]
  rfl

/-- Settles O35: the pushes differ in the value they take and its width; PEI alone reads memory for it. -/
theorem pushes : Obligations.Pushes := by
  intro s u b
  have hcpu : getCpu.run s = .ok b s := getCpu_run s
  have byte (value : Cpu → Byte) (h : s.push8? (value b) = some u) :=
    pushInstr_ended (push := fun b => push8 (value b)) hcpu (push8_mapped h) (push8_op _ _)
  have word (value : Cpu → Word) (h : s.push16? (value b) = some u) :=
    pushInstr_ended (push := fun b => push16 (value b)) hcpu (push16_mapped h) (push16_op _ _)
  have wide (value : Cpu → Word) (w : Cpu → Width) (h : s.pushW? (value b) (w b) = some u) :=
    pushInstr_ended (push := fun b => pushW (value b) (w b)) hcpu (pushW_mapped h) (pushW_op _ _ _)
  refine ⟨fun h => wide (fun b => b.acc b.mW) Cpu.mW h .pha, fun h => wide Cpu.x Cpu.xW h .phx, fun h => wide Cpu.y Cpu.xW h .phy,
    fun h => byte Cpu.p h .php, fun h => byte Cpu.dbr h .phb, fun h => byte Cpu.pbr h .phk, fun h => word Cpu.d h .phd,
    fun v h => word (fun _ => v) h (.pea v), fun o v hv h => ?_, fun rel h => word (fun b => b.pc + rel) h (.per rel)⟩
  have hread : (do memRead ((← getCpu).dpnLoc (zext o)) .w16 : M Word).run s = .ok v s := memRead_mapped hv
  exact pushInstr_ended hread (push16_mapped h) (push16_op _ _) (.pei o)

/-! # PROOFS. O37: the pull instructions (R509 to R514, R620) -/

/-- `u` is `s` but for the main CPU's S. -/
def OnlySMoved (s u : State) : Prop := ∃ k, u = s.onCpu fun b => { b with s := k }

theorem pull8?_moves_s {s u : State} {v : Byte} (h : s.pull8? = some (v, u)) : OnlySMoved s u := by
  obtain ⟨_, -, hu⟩ := Option.map_eq_some_iff.1 h
  exact ⟨_, (congrArg Prod.snd hu).symm⟩

theorem pull16?_moves_s {s u : State} {v : Word} (h : s.pull16? = some (v, u)) : OnlySMoved s u := by
  obtain ⟨⟨l, t⟩, hlow, hrest⟩ := Option.bind_eq_some_iff.1 h
  obtain ⟨⟨m, t'⟩, hhigh, hu⟩ := Option.map_eq_some_iff.1 hrest
  obtain ⟨_, rfl⟩ := pull8?_moves_s hlow
  obtain ⟨k, rfl⟩ := pull8?_moves_s hhigh
  exact ⟨k, (congrArg Prod.snd hu).symm⟩

theorem trunc8_zext (b : Byte) : Width.w8.trunc (zext b) = zext b := by
  have hmask : Width.w8.mask = zext (BitVec.allOnes 8) := rfl
  rw [Width.trunc, hmask, zext, zext, ← BitVec.setWidth_and, BitVec.and_allOnes]

/-- A value pulled fits its width, and its pull moves S alone (R501). -/
theorem pullW?_moves_s {s u : State} {w : Width} {v : Word} (h : s.pullW? w = some (v, u)) :
    w.trunc v = v ∧ OnlySMoved s u := by
  cases w with
  | w8 =>
    obtain ⟨⟨l, t⟩, hpull, hv⟩ := Option.map_eq_some_iff.1 h
    obtain ⟨rfl, rfl⟩ := Prod.mk.inj hv
    exact ⟨trunc8_zext l, pull8?_moves_s hpull⟩
  | w16 => exact ⟨trunc16 v, pull16?_moves_s h⟩

/-- `WriteP`, field by field (R620). -/
theorem writeP_eq_withP (b : Cpu) (v : Byte) : b.writeP v = b.withP v := by
  have hforced : ({ b with p := v } : Cpu).forceModes = { b with p := if b.e then v ||| 0x30 else v } := by
    cases he : b.e with
    | true => simp [Cpu.forceModes]
    | false => simp [Cpu.forceModes]
  rw [Cpu.writeP, hforced, Cpu.maskIndex, Cpu.flag, Cpu.withP]
  split_ifs
  all_goals rfl

/-- The one form of the meanings of the pulls: a value pulled at the width of the registers before it, then registers updated
(R509 to R514). -/
def pullInstr {α : Type} (i : Instr) (pull : Cpu → M α) (g : Cpu → α → Cpu → Cpu) (s : State) : Host.Outcome State Fault Refusal :=
  runInstr i (do
    let b ← getCpu
    let v ← pull b
    onCpu (g b v)
    return Facts.plain) s

section PullInstr

variable {α : Type} {s u : State} {pull : Cpu → M α} {v : α}
  (hrun : (pull s.cpu).run s = .ok v u) (hs : OnlySMoved s u) (i : Instr)

include hrun hs

theorem pullInstr_ended (g : Cpu → α → Cpu → Cpu) :
    pullInstr i pull g s = .next (s.ended i s.cpu Facts.plain (g s.cpu v u.cpu)) := by
  obtain ⟨k, rfl⟩ := hs
  refine runInstr_ended ?_ rfl
  rw [bind_ok (getCpu_run s), bind_ok hrun]
  rfl

/-- A pull into a register: `write` leaves P alone, then N and Z follow the value (R15). -/
theorem pullRegister_ended (write : Cpu → α → Cpu → Cpu) (value : α → Word) (w : Cpu → Width)
    (hp : (write s.cpu v u.cpu).p = s.cpu.p) :
    ∃ q, pullInstr i pull (fun b v c => (write b v c).setNZ (value v) (w b)) s =
        .next (s.ended i s.cpu Facts.plain { write s.cpu v u.cpu with p := q }) ∧
      NzAfter s.cpu.p q (value v) (w s.cpu) [] :=
  ⟨_, pullInstr_ended hrun hs i _, nzAfter_setNZ (fun _ _ => by rw [hp]) _ _⟩

end PullInstr

/-- Settles O37: each pull moves S, then writes its register and the flags of the value; PLP writes P instead. -/
theorem pulls : Obligations.Pulls := by
  intro s u b
  refine ⟨fun v h => ?_, fun v h => ?_, fun v h => ?_, fun v h => ?_, fun v h => ?_, fun v h => ?_⟩
  · obtain ⟨-, k, rfl⟩ := pullW?_moves_s h
    have hrun := pullRegister_ended (pull := fun b => pullW b.mW) (pullW_mapped h) ⟨k, rfl⟩ .pla
      (fun b v c => c.setAcc b.mW v) id Cpu.mW (by rw [setAcc_eq]; rfl)
    rwa [setAcc_eq] at hrun
  · obtain ⟨hfits, k, rfl⟩ := pullW?_moves_s h
    have hrun := pullRegister_ended (pull := fun b => pullW b.xW) (pullW_mapped h) ⟨k, rfl⟩ .plx
      (fun b v c => c.setX b.xW v) id Cpu.xW rfl
    rwa [Cpu.setX, hfits] at hrun
  · obtain ⟨hfits, k, rfl⟩ := pullW?_moves_s h
    have hrun := pullRegister_ended (pull := fun b => pullW b.xW) (pullW_mapped h) ⟨k, rfl⟩ .ply
      (fun b v c => c.setY b.xW v) id Cpu.xW rfl
    rwa [Cpu.setY, hfits] at hrun
  · rw [← writeP_eq_withP]
    exact pullInstr_ended (pull := fun _ => pull8) (pull8_mapped h) (pull8?_moves_s h) .plp fun _ v c => c.writeP v
  · obtain ⟨k, rfl⟩ := pull8?_moves_s h
    exact pullRegister_ended (pull := fun _ => pull8) (pull8_mapped h) ⟨k, rfl⟩ .plb
      (fun _ v c => { c with dbr := v }) zext (fun _ => .w8) rfl
  · obtain ⟨k, rfl⟩ := pull16?_moves_s h
    exact pullRegister_ended (pull := fun _ => pull16) (pull16_mapped h) ⟨k, rfl⟩ .pld
      (fun _ v c => { c with d := v }) id (fun _ => .w16) rfl

end Sys2Proof.Proofs

/-! # PROOFS. O39: binary addition and subtraction (R531, R533) -/

namespace Sys2Proof.Proofs

open Sys2Proof Sys2Proof.Machine Sys2Proof.Laws

/-! ## Values of a width as numbers -/

theorem mask_toNat (w : Width) : w.mask.toNat = 2 ^ w.bits - 1 := by
  cases w <;> rfl

theorem trunc_toNat (w : Width) (v : Word) : (w.trunc v).toNat = v.toNat % 2 ^ w.bits := by
  rw [Width.trunc, BitVec.toNat_and, mask_toNat, Nat.and_two_pow_sub_one_eq_mod]

/-- The top bit tells the upper half of the values of a width. -/
theorem top_eq (w : Width) (v : Word) : w.top v = decide (2 ^ (w.bits - 1) ≤ v.toNat % 2 ^ w.bits) := by
  rw [Width.top, BitVec.getLsbD, Nat.testBit_eq_decide_div_mod_eq, decide_eq_decide]
  cases w <;> simp only [Width.bits] <;> omega

theorem signed_eq (w : Width) (v : Word) : w.signed v = if w.top v then (v.toNat : Int) - 2 ^ w.bits else v.toNat := rfl

/-- Adding overflows where the operands agree in their top bit and the sum does not (R531). -/
theorem overflow_eq (w : Width) (a v s : Word) : overflow w a v s = (w.top a == w.top v && w.top a != w.top s) := by
  have hbits : w.bits - 1 < 16 := by cases w <;> decide
  simp only [overflow, Width.top, BitVec.getLsbD_and, BitVec.getLsbD_not, BitVec.getLsbD_xor, hbits, decide_true,
    Bool.true_and]
  generalize a.getLsbD _ = x, v.getLsbD _ = y, s.getLsbD _ = z
  cases x <;> cases y <;> cases z <;> rfl

theorem trunc_not_toNat {w : Width} {v : Word} (hv : v.toNat < 2 ^ w.bits) :
    (w.trunc (~~~v)).toNat = 2 ^ w.bits - 1 - v.toNat := by
  rw [trunc_toNat, BitVec.toNat_not]
  cases w <;> simp only [Width.bits] at * <;> omega

/-- The complement of a value stands for one less than its negation (R533). -/
theorem signed_trunc_not {w : Width} {v : Word} (hv : v.toNat < 2 ^ w.bits) : w.signed (w.trunc (~~~v)) = -1 - w.signed v := by
  simp only [signed_eq, top_eq, trunc_not_toNat hv, decide_eq_true_eq]
  cases w <;> simp only [Width.bits] at * <;> split_ifs <;> omega

/-! ## Binary addition -/

section BinAdd

variable {w : Width} {a v : Word} (c : Bool)

theorem binAdd_toNat (a v : Word) : (binAdd w a v c).r.toNat = (a.toNat + v.toNat + c.toNat) % 2 ^ w.bits := by
  have hdvd : 2 ^ w.bits ∣ 2 ^ 16 := pow_dvd_pow 2 (by cases w <;> decide)
  simp only [binAdd]
  rw [trunc_toNat, BitVec.toNat_ofNat, Nat.mod_mod_of_dvd _ hdvd]

theorem binAdd_carry (a v : Word) : (binAdd w a v c).c = decide (2 ^ w.bits ≤ a.toNat + v.toNat + c.toNat) := by
  cases w <;> exact decide_eq_decide.2 Nat.lt_iff_add_one_le

/-- V is set exactly where the signed sum does not fit (R531). -/
theorem binAdd_overflow (ha : a.toNat < 2 ^ w.bits) (hv : v.toNat < 2 ^ w.bits) :
    (binAdd w a v c).v = w.outOfRange (w.signed a + w.signed v + (c.toNat : Int)) := by
  have hc := c.toNat_le
  have hsum : (BitVec.ofNat 16 (a.toNat + v.toNat + c.toNat)).toNat % 2 ^ w.bits = (a.toNat + v.toNat + c.toNat) % 2 ^ w.bits :=
    (trunc_toNat _ _).symm.trans (binAdd_toNat c a v)
  rw [Bool.eq_iff_iff]
  simp only [binAdd, overflow_eq, Width.outOfRange, signed_eq, top_eq, hsum, Bool.and_eq_true, beq_iff_eq, bne_iff_ne, ne_eq,
    decide_eq_decide, Bool.or_eq_true, decide_eq_true_eq]
  cases w <;> simp only [Width.bits] at * <;> split_ifs <;> omega

end BinAdd

/-- Settles O39: SBC adds the complement, which is the largest value less the operand, and its signed value is one less than the
operand's negation. -/
theorem binaryArithmetic : Obligations.BinaryArithmetic := by
  intro w a v c ha hv
  have hnot := trunc_not_toNat hv
  have hc := c.toNat_le
  refine ⟨binAdd_toNat c a v, binAdd_carry c a v, binAdd_overflow c ha hv, ?_, ?_, ?_⟩
  · refine (binAdd_toNat c a _).trans (congrArg (· % 2 ^ w.bits) ?_)
    omega
  · refine (binAdd_carry c a _).trans (decide_eq_decide.2 ?_)
    omega
  · refine (binAdd_overflow c ha ?_).trans (congrArg w.outOfRange ?_)
    · omega
    · rw [signed_trunc_not hv]
      omega

/-! # PROOFS. O40: decimal addition and subtraction (R532, R534) -/

/-! ## Addition digit by digit -/

/-- The number with digits `d` to base `b`, the first `n` of them. -/
def positional (b : Nat) (d : Nat → Nat) (n : Nat) : Nat := ∑ k ∈ Finset.range n, d k * b ^ k

/-- The carry into digit `k` of the decimal sum of the digits `x` and `y` and a carry. -/
def decCarry (x y : Nat → Nat) (c : Bool) : Nat → Bool
  | 0 => c
  | k + 1 => decide (10 ≤ x k + y k + (decCarry x y c k).toNat)

/-- Digit `k` of that sum. -/
def decDigit (x y : Nat → Nat) (c : Bool) (k : Nat) : Nat := (x k + y k + (decCarry x y c k).toNat) % 10

theorem positional_succ (b : Nat) (d : Nat → Nat) (n : Nat) : positional b d (n + 1) = positional b d n + d n * b ^ n :=
  Finset.sum_range_succ _ n

theorem positional_lt {b : Nat} {d : Nat → Nat} (n : Nat) (hd : ∀ k, d k < b) : positional b d n < b ^ n := by
  induction n with
  | zero => exact Nat.one_pos
  | succ n ih =>
    have htop : (d n + 1) * b ^ n ≤ b * b ^ n := Nat.mul_le_mul_right _ (hd n)
    rw [positional_succ, pow_succ']
    linarith

/-- The digits and the last carry are the sum of the two numbers and the first carry. -/
theorem decimal_sum {x y : Nat → Nat} {n : Nat} (hx : ∀ k < n, x k ≤ 9) (hy : ∀ k < n, y k ≤ 9) (c : Bool) :
    positional 10 (decDigit x y c) n + (decCarry x y c n).toNat * 10 ^ n = positional 10 x n + positional 10 y n + c.toNat := by
  induction n with
  | zero => simp [positional, decCarry]
  | succ n ih =>
    have hxn := hx n (Nat.lt_succ_self n)
    have hyn := hy n (Nat.lt_succ_self n)
    have hcn := (decCarry x y c n).toNat_le
    have ih := ih (fun k hk => hx k (Nat.lt_succ_of_lt hk)) (fun k hk => hy k (Nat.lt_succ_of_lt hk))
    have hcolumn : decDigit x y c n + (decCarry x y c (n + 1)).toNat * 10 = x n + y n + (decCarry x y c n).toNat := by
      simp only [decDigit, decCarry]
      by_cases h10 : 10 ≤ x n + y n + (decCarry x y c n).toNat
      · simp only [h10, decide_true, Bool.toNat_true]
        omega
      · simp only [h10, decide_false, Bool.toNat_false]
        omega
    simp only [positional_succ]
    linear_combination ih + 10 ^ n * hcolumn

/-- The nines' complement of the first `n` digits (R534). -/
theorem positional_nines {x : Nat → Nat} {n : Nat} (hx : ∀ k < n, x k ≤ 9) :
    positional 10 (fun k => 9 - x k) n + positional 10 x n + 1 = 10 ^ n := by
  induction n with
  | zero => rfl
  | succ n ih =>
    have hxn : 9 - x n + x n = 9 := Nat.sub_add_cancel (hx n (Nat.lt_succ_self n))
    have ih := ih fun k hk => hx k (Nat.lt_succ_of_lt hk)
    simp only [positional_succ]
    linear_combination ih + 10 ^ n * hxn

/-! ## The digits of a word -/

theorem bcdValue_eq {w : Width} {v : Word} (h : w.isBcd v) : bcdValue v = positional 10 (bcdDigit v) w.digits := by
  obtain ⟨hfits, -, -, -, -⟩ := h
  cases w with
  | w8 =>
    have hfits : v.toNat ≤ 0xFF := hfits
    simp only [bcdValue, positional, Width.digits, Finset.sum_range_succ, Finset.sum_range_zero, bcdDigit]
    omega
  | w16 =>
    simp only [bcdValue, positional, Width.digits, Finset.sum_range_succ, Finset.sum_range_zero]
    omega

/-- A word whose base-16 digits are decimal digits. -/
theorem isBcd_of_positional {w : Width} {v : Word} {d : Nat → Nat} (hd : ∀ k, d k < 10) (hv : v.toNat = positional 16 d w.digits) :
    w.isBcd v ∧ bcdValue v = positional 10 d w.digits := by
  have h0 := hd 0
  have h1 := hd 1
  have h2 := hd 2
  have h3 := hd 3
  cases w <;>
    simp only [positional, Width.digits, Finset.sum_range_succ, Finset.sum_range_zero] at hv ⊢ <;>
    simp only [Width.isBcd, mask_toNat, Width.bits, bcdValue, bcdDigit] <;>
    omega

theorem isBcd_digit_le {w : Width} {v : Word} (h : w.isBcd v) {k : Nat} (hk : k < w.digits) : bcdDigit v k ≤ 9 := by
  obtain ⟨-, h0, h1, h2, h3⟩ := h
  have hk4 : k < 4 := hk.trans_le (by cases w <;> decide)
  interval_cases k <;> assumption

/-- Bits `j` to `j + 3` of a number, in place. -/
theorem and_nibble (x j : Nat) : x &&& 15 * 2 ^ j = x / 2 ^ j % 16 * 2 ^ j := by
  refine Nat.eq_of_testBit_eq fun i => ?_
  have hmask : (15 : Nat).testBit (i - j) = decide (i - j < 4) := Nat.testBit_two_pow_sub_one 4 _
  have hmod : (x / 2 ^ j % 16).testBit (i - j) = (decide (i - j < 4) && (x / 2 ^ j).testBit (i - j)) :=
    Nat.testBit_mod_two_pow _ 4 _
  rw [Nat.testBit_and, Nat.testBit_mul_two_pow, Nat.testBit_mul_two_pow, hmask, hmod, Nat.testBit_div_two_pow]
  by_cases hi : j ≤ i
  · rw [Nat.sub_add_cancel hi, Bool.and_left_comm, Bool.and_comm (x.testBit i)]
  · simp [hi]

/-- The mask of digit `k`. -/
def digitMask (k : Nat) : Word := BitVec.ofNat 16 (15 * 16 ^ k)

theorem digit_digitMask (v : Word) {k : Nat} (hk : k < 4) : digit v (digitMask k) = ((bcdDigit v k * 16 ^ k : Nat) : Int) := by
  have hmask : 15 * 16 ^ k < 2 ^ 16 := by interval_cases k <;> decide
  have hpow : 16 ^ k = 2 ^ (4 * k) := (pow_mul 2 4 k).symm
  rw [digit, digitMask, BitVec.toNat_and, BitVec.toNat_ofNat, Nat.mod_eq_of_lt hmask, bcdDigit, hpow, and_nibble]

theorem bcdDigit_trunc_not {w : Width} (v : Word) {k : Nat} (hk : k < w.digits) :
    bcdDigit (w.trunc (~~~v)) k = 15 - bcdDigit v k := by
  have hv := v.isLt
  rw [bcdDigit, bcdDigit, trunc_toNat, BitVec.toNat_not]
  cases w <;> simp only [Width.digits, Width.bits] at * <;> interval_cases k <;> omega

/-! ## The model's algorithms as one loop over the digits -/

/-- The loop of R532 and R534 over the first digits: the running sum, adjusted, and the carry. -/
def decLoop (step : Nat → Int → Int × Bool) (a v : Word) (c : Bool) : Nat → Int × Bool
  | 0 => (0, c)
  | k + 1 =>
    step k (digit a (digitMask k) + digit v (digitMask k) + ((decLoop step a v c k).2.toNat : Int) * ((16 ^ k : Nat) : Int) +
      low (decLoop step a v c k).1 (16 ^ k - 1))

/-- The adjustment of digit `k` in an addition (R532). -/
def addDigit (k : Nat) (r : Int) : Int × Bool :=
  decAddStep r (10 * (16 ^ k : Nat) - 1) (6 * (16 ^ k : Nat)) (16 * (16 ^ k : Nat) - 1)

/-- The adjustment of digit `k` in a subtraction (R534). -/
def subDigit (k : Nat) (r : Int) : Int × Bool := decSubStep r (16 * (16 ^ k : Nat) - 1) (6 * (16 ^ k : Nat))

theorem decAdd_eq_loop (w : Width) (a v : Word) (c : Bool) :
    (decAdd w a v c).r = w.trunc (BitVec.ofInt 16 (decLoop addDigit a v c w.digits).1) ∧
    (decAdd w a v c).c = (decLoop addDigit a v c w.digits).2 := by
  have hfirst : low 0 0 = 0 := rfl
  cases w <;> simp [decAdd, decAddSum, decLoop, addDigit, decAddStep, Width.digits, Width.mask, digitMask, hfirst]

theorem decSub_eq_loop (w : Width) (a v : Word) (c : Bool) :
    (decSub w a v c).r = w.trunc (BitVec.ofInt 16 (decLoop subDigit a (w.trunc (~~~v)) c w.digits).1) ∧
    (decSub w a v c).c = (decLoop subDigit a (w.trunc (~~~v)) c w.digits).2 := by
  have hfirst : low 0 0 = 0 := rfl
  cases w <;> simp [decSub, decSubSum, decLoop, subDigit, decSubStep, Width.digits, Width.mask, digitMask, hfirst]

/-! ## What the loop computes -/

/-- A digit sum too large by `o` is left a decimal digit with 16 times its carry on top; the lower digits stand. -/
def Adjusts (step : Nat → Int → Int × Bool) (o : Nat) : Prop :=
  ∀ {k m L : Nat}, L < 16 ^ k →
    step k (((m + o) * 16 ^ k + L : Nat) : Int) = ((((if 10 ≤ m then m + 6 else m) * 16 ^ k + L : Nat) : Int), decide (10 ≤ m))

/-- Whether a digit sum carries, seen at the digit's place. -/
theorem carries_or_not (m B : Nat) : 10 ≤ m ∧ 10 * B ≤ m * B ∨ ¬10 ≤ m ∧ m * B ≤ 9 * B := by
  by_cases hm : 10 ≤ m
  · exact .inl ⟨hm, Nat.mul_le_mul_right _ hm⟩
  · exact .inr ⟨hm, Nat.mul_le_mul_right _ (by omega)⟩

theorem addDigit_adjusts : Adjusts addDigit 0 := by
  intro k m L hL
  simp only [addDigit, decAddStep, add_mul]
  generalize 16 ^ k = B at *
  rcases carries_or_not m B with ⟨hm, hB⟩ | ⟨hm, hB⟩
  · simp only [hm, if_true, decide_true, add_mul, Prod.mk.injEq, decide_eq_true_eq]
    rw [if_pos (by omega)]
    omega
  · simp only [hm, if_false, decide_false, Prod.mk.injEq, decide_eq_false_iff_not]
    rw [if_neg (by omega)]
    omega

theorem subDigit_adjusts : Adjusts subDigit 6 := by
  intro k m L hL
  simp only [subDigit, decSubStep, add_mul]
  generalize 16 ^ k = B at *
  rcases carries_or_not m B with ⟨hm, hB⟩ | ⟨hm, hB⟩
  · simp only [hm, if_true, decide_true, add_mul, Prod.mk.injEq, decide_eq_true_eq]
    rw [if_neg (by omega)]
    omega
  · simp only [hm, if_false, decide_false, Prod.mk.injEq, decide_eq_false_iff_not]
    rw [if_pos (by omega)]
    omega

/-- The low digits an adjustment leaves. -/
theorem low_adjusted {k m L : Nat} (hm : m ≤ 19) (hL : L < 16 ^ k) :
    low (((if 10 ≤ m then m + 6 else m) * 16 ^ k + L : Nat) : Int) (16 ^ (k + 1) - 1) = ((L + m % 10 * 16 ^ k : Nat) : Int) := by
  have hadjusted : (if 10 ≤ m then m + 6 else m) = m % 10 + 16 * (m / 10) := by split_ifs <;> omega
  have hdigit : (m % 10 + 1) * 16 ^ k ≤ 16 * 16 ^ k := Nat.mul_le_mul_right _ (by omega)
  have hfits : L + m % 10 * 16 ^ k < 16 ^ (k + 1) := by rw [pow_succ']; linarith
  have hcast : ((16 ^ (k + 1) - 1 : Nat) : Int) + 1 = ((16 ^ (k + 1) : Nat) : Int) := by
    exact_mod_cast Nat.sub_add_cancel (Nat.one_le_pow _ _ (by decide))
  rw [low, hcast, ← Int.natCast_emod, hadjusted,
    show (m % 10 + 16 * (m / 10)) * 16 ^ k + L = L + m % 10 * 16 ^ k + 16 ^ (k + 1) * (m / 10) by ring, Nat.add_mul_mod_self_left,
    Nat.mod_eq_of_lt hfits]

section DecLoop

variable {step : Nat → Int → Int × Bool} {o n : Nat} {a v : Word} {y : Nat → Nat}

/-- After `n` digits the running sum ends in the first `n` digits of the decimal sum, and the carry is the carry out of them. -/
theorem decLoop_digits (hstep : Adjusts step o) (hn : n ≤ 4) (ha : ∀ k < n, bcdDigit a k ≤ 9) (hy : ∀ k < n, y k ≤ 9)
    (hv : ∀ k < n, bcdDigit v k = y k + o) (c : Bool) :
    (decLoop step a v c n).2 = decCarry (bcdDigit a) y c n ∧
    low (decLoop step a v c n).1 (16 ^ n - 1) = ((positional 16 (decDigit (bcdDigit a) y c) n : Nat) : Int) := by
  induction n with
  | zero => exact ⟨rfl, rfl⟩
  | succ n ih =>
    obtain ⟨hcarry, hlow⟩ := ih (by omega) (fun k hk => ha k (by omega)) (fun k hk => hy k (by omega)) fun k hk => hv k (by omega)
    have hcn := (decCarry (bcdDigit a) y c n).toNat_le
    have han := ha n (by omega)
    have hyn := hy n (by omega)
    have hL : positional 16 (decDigit (bcdDigit a) y c) n < 16 ^ n := positional_lt n fun k => by simp only [decDigit]; omega
    have hrun : decLoop step a v c (n + 1) = step n (((bcdDigit a n + y n + (decCarry (bcdDigit a) y c n).toNat + o) * 16 ^ n +
        positional 16 (decDigit (bcdDigit a) y c) n : Nat) : Int) := by
      rw [decLoop, digit_digitMask a (by omega), digit_digitMask v (by omega), hv n (by omega), hcarry, hlow]
      congr 1
      push_cast
      ring
    rw [hrun, hstep hL]
    exact ⟨rfl, by rw [low_adjusted (by omega) hL, positional_succ]; rfl⟩

end DecLoop

theorem trunc_ofInt_toNat (w : Width) (r : Int) : ((w.trunc (BitVec.ofInt 16 r)).toNat : Int) = low r (16 ^ w.digits - 1) := by
  rw [trunc_toNat, BitVec.toNat_ofInt]
  cases w <;> simp only [low, Width.bits, Width.digits] <;> omega

section DecimalResult

variable {w : Width} {step : Nat → Int → Int × Bool} {o : Nat} {a v : Word} {x : ArithResult} {y : Nat → Nat} {c : Bool}

/-- A result read off the loop: decimal, and with its carry the sum of the first operand, the digits added and the carry in. -/
theorem decimal_result (hx : x.r = w.trunc (BitVec.ofInt 16 (decLoop step a v c w.digits).1) ∧ x.c = (decLoop step a v c w.digits).2)
    (hstep : Adjusts step o) (ha : w.isBcd a) (hy : ∀ k < w.digits, y k ≤ 9) (hv : ∀ k < w.digits, bcdDigit v k = y k + o) :
    w.isBcd x.r ∧ bcdValue x.r < 10 ^ w.digits ∧
    bcdValue x.r + x.c.toNat * 10 ^ w.digits = bcdValue a + positional 10 y w.digits + c.toNat := by
  obtain ⟨hr, hcarry⟩ := hx
  have hdigits : w.digits ≤ 4 := by cases w <;> decide
  have had : ∀ k < w.digits, bcdDigit a k ≤ 9 := fun k hk => isBcd_digit_le ha hk
  have hd : ∀ k, decDigit (bcdDigit a) y c k < 10 := fun k => Nat.mod_lt _ (by decide)
  obtain ⟨hc, hlow⟩ := decLoop_digits hstep hdigits had hy hv c
  have htoNat : x.r.toNat = positional 16 (decDigit (bcdDigit a) y c) w.digits := by
    rw [← trunc_ofInt_toNat, ← hr] at hlow
    exact_mod_cast hlow
  obtain ⟨hbcd, hvalue⟩ := isBcd_of_positional hd htoNat
  rw [hvalue, hcarry, hc, bcdValue_eq ha]
  exact ⟨hbcd, positional_lt _ hd, decimal_sum had hy c⟩

end DecimalResult

/-- A value below `N` and a carry that make up a sum below `2 * N`. -/
theorem mod_and_carry {N val s : Nat} {c : Bool} (hval : val < N) (h : val + c.toNat * N = s) :
    val = s % N ∧ c = decide (N ≤ s) := by
  subst h
  cases c <;> simp [Nat.mod_eq_of_lt hval, hval]

/-- Settles O40: subtraction is addition of the nines' complement, each of whose digits reaches the loop 6 too large. -/
theorem decimalArithmetic : Obligations.DecimalArithmetic := by
  intro w a v c ha hv
  have hvd : ∀ k < w.digits, bcdDigit v k ≤ 9 := fun k hk => isBcd_digit_le hv hk
  obtain ⟨hadd, haddlt, haddsum⟩ := decimal_result (c := c) (x := decAdd w a v c) (decAdd_eq_loop w a v c) addDigit_adjusts ha hvd
    fun _ _ => rfl
  obtain ⟨hsub, hsublt, hsubsum⟩ := decimal_result (c := c) (x := decSub w a v c) (y := fun k => 9 - bcdDigit v k)
    (decSub_eq_loop w a v c) subDigit_adjusts ha (fun k _ => Nat.sub_le _ _) fun k hk => by
      have hk9 := hvd k hk
      rw [bcdDigit_trunc_not v hk]
      omega
  have hnines := positional_nines hvd
  rw [← bcdValue_eq hv] at haddsum hnines
  obtain ⟨haddval, haddcarry⟩ := mod_and_carry haddlt haddsum
  obtain ⟨hsubval, hsubcarry⟩ := mod_and_carry hsublt hsubsum
  have hc := c.toNat_le
  refine ⟨hadd, haddval, haddcarry, hsub, hsubval.trans (congrArg (· % 10 ^ w.digits) ?_), hsubcarry.trans (decide_eq_decide.2 ?_)⟩ <;>
    omega

/-! # PROOFS. O38, O41 and O42: the instructions with a source operand (R530, R533, R536 to R542) -/

/-- The flags of an arithmetic result (R531, R532, R534). -/
theorem nzAfter_setArith (b : Cpu) (w : Width) (x : ArithResult) : NzAfter b.p (b.setArith w x).p x.r w [0, 6] := by
  have hflag := setArith_flag w x b
  refine ⟨hflag 7, hflag 1, fun j h7 h1 hj => ?_⟩
  rw [List.mem_cons, List.mem_singleton, not_or] at hj
  obtain ⟨h0, h6⟩ := hj
  refine (hflag j).trans ?_
  rw [if_neg h1, if_neg h7, if_neg h6, if_neg h0]
  rfl

section ReadInstr

variable {s u : State} {src : Src} {v : Word} {f : Facts} (i : Instr)

/-- An accumulator operation with arithmetic flags (R530, R533). -/
theorem arithInstr_ended (h : (srcValue src s.cpu.mW).run s = .ok (v, f) u)
    (g : Bool → Width → Word → Word → Bool → ArithResult) {x : ArithResult}
    (hx : g (s.cpu.flag fD) s.cpu.mW (s.cpu.acc s.cpu.mW) v (s.cpu.flag fC) = x) :
    ∃ q, arithInstr i src g s = .next (u.ended i s.cpu f { s.cpu with c := accAfter s.cpu.c s.cpu.mW x.r, p := q }) ∧
      NzAfter s.cpu.p q x.r s.cpu.mW [0, 6] ∧ q.getLsbD 0 = x.c ∧ q.getLsbD 6 = x.v := by
  subst hx
  let x := g (s.cpu.flag fD) s.cpu.mW (s.cpu.acc s.cpu.mW) v (s.cpu.flag fC)
  have hend := readInstr_ended h i fun w v b => (b.setAcc w (g (b.flag fD) w (b.acc w) v (b.flag fC)).r).setArith w
    (g (b.flag fD) w (b.acc w) v (b.flag fC))
  have hflag := setArith_flag s.cpu.mW x s.cpu
  refine ⟨(s.cpu.setArith s.cpu.mW x).p, hend.trans ?_, nzAfter_setArith s.cpu _ x, hflag 0, hflag 6⟩
  rw [setAcc_eq]
  rfl

/-- A comparison of the register `a` with the operand (R536 to R538). -/
theorem compare_ended {w : Cpu → Width} (h : (srcValue src (w s.cpu)).run s = .ok (v, f) u) (a : Width → Cpu → Word) :
    ∃ q, runInstr i (do
      let w := w (← getCpu)
      let (v, facts) ← srcValue src w
      onCpu fun b => b.compare w (a w b) v
      return facts) s = .next (u.ended i s.cpu f { s.cpu with p := q }) ∧
      NzAfter s.cpu.p q (a (w s.cpu) s.cpu - v) (w s.cpu) [0] ∧
      q.getLsbD 0 = decide (v.toNat ≤ (a (w s.cpu) s.cpu).toNat) :=
  ⟨_, readInstr_ended h i fun w v b => b.compare w (a w b) v, nz_after_carry (oneFlag_putBit (by decide) _ _) _ _⟩

/-- A logical operation on the accumulator (R539 to R541). -/
theorem logicInstr_ended (h : (srcValue src s.cpu.mW).run s = .ok (v, f) u) (g : Word → Word → Word) {r : Word}
    (hr : g (s.cpu.acc s.cpu.mW) v = r) :
    ∃ q, logicInstr i src g s = .next (u.ended i s.cpu f { s.cpu with c := accAfter s.cpu.c s.cpu.mW r, p := q }) ∧
      NzAfter s.cpu.p q r s.cpu.mW [] := by
  subst hr
  have hend := readInstr_ended h i fun w v b => (b.setAcc w (g (b.acc w) v)).setNZ (g (b.acc w) v) w
  refine ⟨_, hend.trans ?_, nzAfter_setNZ (b := s.cpu) (fun _ _ => rfl) _ _⟩
  rw [setAcc_eq]
  rfl

end ReadInstr

/-- Settles O38: ADC and SBC are `arithInstr` with their own results. -/
theorem addAndSubtract : Obligations.AddAndSubtract := by
  intro s u src v f h w a e he
  rw [List.mem_cons, List.mem_singleton] at he
  rcases he with rfl | rfl
  · exact arithInstr_ended (.adc src) h adcResult rfl
  · exact arithInstr_ended (.sbc src) h sbcResult rfl

/-- Settles O41: the three comparisons differ in the register and its width. -/
theorem compares : Obligations.Compares := by
  intro s u src v f e he h
  simp only [List.mem_cons, List.not_mem_nil, or_false] at he
  rcases he with rfl | rfl | rfl
  · exact compare_ended (w := Cpu.mW) (.cmp src) h fun w b => b.acc w
  · exact compare_ended (w := Cpu.xW) (.cpx src) h fun _ b => b.x
  · exact compare_ended (w := Cpu.xW) (.cpy src) h fun _ b => b.y

theorem bitTest_flag (b : Cpu) (w : Width) (v : Word) (imm : Bool) (j : Nat) :
    (b.bitTest w v imm).p.getLsbD j =
      if j = 6 ∧ imm = false then v.getLsbD (w.bits - 2) else if j = 7 ∧ imm = false then v.getLsbD (w.bits - 1)
      else if j = 1 then decide (b.acc w &&& v = 0) else b.p.getLsbD j := by
  cases imm with
  | true =>
    simp only [Bool.true_eq_false, and_false, if_false]
    exact setFlag_flag (by decide) _ b j
  | false =>
    refine (setFlag_flag (by decide) _ _ j).trans ?_
    rw [setFlag_flag (by decide), setFlag_flag (by decide)]
    simp only [and_true]
    rfl

/-- BIT changes flags alone (R542). -/
theorem bitTest_eq (b : Cpu) (w : Width) (v : Word) (imm : Bool) : b.bitTest w v imm = { b with p := (b.bitTest w v imm).p } := by
  cases imm <;> rfl

/-- Settles O42: the three logical operations are one, and BIT's flags are those of `bitTest_flag`. -/
theorem logicAndBit : Obligations.LogicAndBit := by
  intro s u src v f h w a
  refine ⟨fun e he => ?_, ?_⟩
  · simp only [List.mem_cons, List.not_mem_nil, or_false] at he
    rcases he with rfl | rfl | rfl
    · exact logicInstr_ended (.and src) h (· &&& ·) rfl
    · exact logicInstr_ended (.ora src) h (· ||| ·) rfl
    · exact logicInstr_ended (.eor src) h (· ^^^ ·) rfl
  · cases src with
    | imm k =>
      have hflag := bitTest_flag s.cpu w v true
      have hend := readInstr_ended (w := Cpu.mW) h (.bit (.imm k)) fun w v b => b.bitTest w v true
      rw [bitTest_eq] at hend
      refine ⟨_, hend, hflag 1, fun _ _ j h1 => ?_, fun _ hm => Src.noConfusion hm⟩
      rw [hflag, if_neg (by simp), if_neg (by simp), if_neg h1]
    | mem m =>
      have hflag := bitTest_flag s.cpu w v false
      have hend := readInstr_ended (w := Cpu.mW) h (.bit (.mem m)) fun w v b => b.bitTest w v false
      rw [bitTest_eq] at hend
      refine ⟨_, hend, hflag 1, fun _ hk => Src.noConfusion hk, fun _ _ => ⟨hflag 7, hflag 6, fun j h1 h6 h7 => ?_⟩⟩
      rw [hflag, if_neg fun h => h6 h.1, if_neg fun h => h7 h.1, if_neg h1]

end Sys2Proof.Proofs

/-! # PROOFS. O47: calls and returns (R596 to R600) -/

namespace Sys2Proof.Proofs

open Sys2Proof Sys2Proof.Machine Sys2Proof.Laws

section PushedWord

variable {s u : State} {v : Word} (h : s.push16? v = some u)

include h

theorem push16?_cpu : u.cpu = s.cpu.decS.decS := by
  obtain ⟨t, hhigh, hlow⟩ := Option.bind_eq_some_iff.1 h
  rw [push8?_cpu hlow, push8?_cpu hhigh]

theorem push16?_cfg : u.cfg = s.cfg := by
  obtain ⟨t, hhigh, hlow⟩ := Option.bind_eq_some_iff.1 h
  rw [push8?_cfg hlow, push8?_cfg hhigh]

end PushedWord

/-- A pull does not ask where the program is: S alone says which byte it answers (R500). -/
theorem pull8?_jumped {s u : State} {v : Byte} (h : s.pull8? = some (v, u)) (t : Word) :
    (s.onCpu fun b => { b with pc := t }).pull8? = some (v, u.onCpu fun b => { b with pc := t }) := by
  obtain ⟨_, hbyte, hu⟩ := Option.map_eq_some_iff.1 h
  cases hu
  exact Option.map_eq_some_iff.2 ⟨v, hbyte, rfl⟩

/-- Settles O47: the pushes of a call end in `u`, where the target is read and jumped to; the pulls of a return move S alone. -/
theorem callsAndReturns : Obligations.CallsAndReturns := by
  intro s u a t q k b
  refine ⟨fun h => ?_, fun h => ?_, fun h => ?_⟩
  · have hpush : (push16 (b.pc - 1)).run s = .ok () u := push16_mapped h
    refine ⟨runInstr_ended ?_ (push16?_cfg h), fun htarget => runInstr_ended ?_ (push16?_cfg h)⟩
    · rw [bind_ok (getCpu_run s), bind_ok hpush]
      rfl
    · have hread : (absIndexedIndirect a).run u = .ok t u := by
        rw [absIndexedIndirect, bind_ok (getCpu_run u), push16?_cpu h]
        exact memRead_mapped htarget
      rw [bind_ok (getCpu_run s), bind_ok hpush, bind_ok hread]
      rfl
  · obtain ⟨s₁, hbank, hret⟩ := Option.bind_eq_some_iff.1 h
    refine runInstr_ended ?_ ((push16?_cfg hret).trans (push8?_cfg hbank))
    rw [bind_ok (getCpu_run s), bind_ok (push8_mapped hbank), bind_ok (getCpu_run s₁), push8?_cpu hbank,
      decS_pc, bind_ok (push16_mapped hret)]
    rfl
  · obtain ⟨_, rfl⟩ := pull16?_moves_s h
    refine ⟨runInstr_ended ?_ rfl, fun u' hbank => ?_⟩
    · rw [bind_ok (pull16_mapped h)]
      rfl
    · have hpull := pull8_mapped (pull8?_jumped hbank (t + 1))
      obtain ⟨_, rfl⟩ := pull8?_moves_s hbank
      refine runInstr_ended ?_ rfl
      rw [bind_ok (pull16_mapped h), jumpTo, bind_ok (onCpu_run _ _), bind_ok hpull]
      rfl

/-! # PROOFS. O16: RTI (R601, R620) -/

/-- The bank RTI pulls in native mode alone (R601, R809). -/
def returnBank : M Unit := do
  if !(← getCpu).e then
    let k ← pull8
    onCpu fun b => { b with pbr := k }

theorem returnBank_emulation {s : State} (he : s.cpu.e = true) : returnBank.run s = .ok () s := by
  rw [returnBank, bind_ok (getCpu_run s), he]
  rfl

theorem returnBank_native {s u : State} {k : Byte} (h : s.pull8? = some (k, u)) (he : s.cpu.e = false) :
    returnBank.run s = .ok () (u.onCpu fun b => { b with pbr := k }) := by
  rw [returnBank, bind_ok (getCpu_run s), he]
  exact bind_ok (pull8_mapped h)

/-- Settles O16: `WriteP` stands between the pull of P and that of PC, and E is as it was before RTI. -/
theorem returnFromInterrupt : Obligations.ReturnFromInterrupt := by
  intro s s₁ s₂ p t hp hpc
  have hreturn : Machine.returnFromInterrupt.run s = returnBank.run (s₂.onCpu fun b => { b with pc := t }) := by
    have hwrite : (onCpu (·.writeP p)).run s₁ = .ok () (s₁.onCpu (·.withP p)) := by
      rw [onCpu_run, State.onCpu, writeP_eq_withP, State.onCpu]
    rw [Machine.returnFromInterrupt, bind_ok (pull8_mapped hp), bind_ok hwrite, bind_ok (pull16_mapped hpc)]
    rfl
  obtain ⟨he₂, hcfg⟩ : s₂.cpu.e = s.cpu.e ∧ s₂.cfg = s.cfg := by
    obtain ⟨_, rfl⟩ := pull8?_moves_s hp
    obtain ⟨_, rfl⟩ := pull16?_moves_s hpc
    exact ⟨rfl, rfl⟩
  refine ⟨fun he => runInstr_ended ?_ hcfg, fun he k s₃ hbank => ?_⟩
  · rw [bind_ok (hreturn.trans (returnBank_emulation (he₂.trans he)))]
    rfl
  · have hrun := returnBank_native (pull8?_jumped hbank t) (he₂.trans he)
    obtain ⟨_, rfl⟩ := pull8?_moves_s hbank
    refine runInstr_ended ?_ hcfg
    rw [bind_ok (hreturn.trans hrun)]
    rfl

end Sys2Proof.Proofs

/-! # PROOFS. O17: RTI after an interrupt entry (R601, R805, R807, R809) -/

namespace Sys2Proof.Proofs

open Sys2Proof Sys2Proof.Machine Sys2Proof.Laws

/-! ## Bytes on a stack in work RAM -/

/-- The offsets in bank 0 that the next `n` pushes from registers `b` store at, the first push's first (R500). -/
def slots (b : Cpu) : Nat → List Word
  | 0 => []
  | n + 1 => b.s :: slots b.decS n

/-- The next `n` pushes store at distinct bytes of the first 8 KiB of work RAM (R221). -/
def Room (b : Cpu) (n : Nat) : Prop := (slots b n).Nodup ∧ ∀ k ∈ slots b n, k.toNat < 0x2000

/-- The bytes `vs`, pushed in this order from registers `b`, are still on the stack. -/
def Holds (t : State) (b : Cpu) (vs : List Byte) : Prop :=
  List.Forall₂ (fun k v => t.byte? (mkAddr 0 k) = some v) (slots b vs.length) vs

theorem rpage_bank0 {cfg : Config} {k : Word} (hk : k.toNat < 0x2000) : rpage cfg (mkAddr 0 k) = some (.wram, k.toNat) :=
  rpage_lowWram (.inl (by decide)) hk

theorem push8?_low {s : State} (hs : s.cpu.s.toNat < 0x2000) (v : Byte) : ∃ t, s.push8? v = some t := by
  have hw : (wpage s.cfg (mkAddr 0 s.cpu.s)).isSome := by
    rw [wpage, rpage_bank0 hs]
    rfl
  obtain ⟨u, hu⟩ := poke?_of_writable hw
  exact ⟨_, by rw [State.push8?, hu]; rfl⟩

/-- Pushes in work RAM complete, and each byte stays until its pull: no later push stores at its slot, nor at any offset outside the
slots (R500). -/
theorem pushes_hold {vs : List Byte} : ∀ {s : State}, Memory.wf s = true → Room s.cpu vs.length →
    ∃ t, (vs.forM push8).run s = .ok () t ∧ t.cpu = Cpu.decS^[vs.length] s.cpu ∧ Holds t s.cpu vs ∧
      ∀ k : Word, k.toNat < 0x2000 → k ∉ slots s.cpu vs.length → t.byte? (mkAddr 0 k) = s.byte? (mkAddr 0 k) := by
  induction vs with
  | nil => exact fun _ _ => ⟨_, rfl, rfl, .nil, fun _ _ _ => rfl⟩
  | cons v vs ih =>
    intro s hm ⟨hnodup, hlow⟩
    obtain ⟨hfirst, hrest⟩ := List.nodup_cons.1 hnodup
    obtain ⟨hs, hlater⟩ := List.forall_mem_cons.1 hlow
    obtain ⟨u, hu⟩ := push8?_low hs v
    have hcpu : u.cpu = s.cpu.decS := push8?_cpu hu
    obtain ⟨t, hrun, ht, hholds, hother⟩ := ih (memory_wf_push8? hu hm) (hcpu ▸ ⟨hrest, hlater⟩)
    rw [hcpu] at ht hholds hother
    refine ⟨t, ?_, ht, .cons ?_ hholds, fun k hk hslot => ?_⟩
    · rw [List.forM_eq_forM, List.forM_cons, bind_ok (push8_mapped hu)]
      exact hrun
    · exact (hother _ hs hfirst).trans (byte?_push8?_same hu hm)
    · obtain ⟨hne, hnotin⟩ := not_or.1 (mt List.mem_cons.2 hslot)
      refine (hother k hk hnotin).trans (byte?_push8?_other hu ?_)
      rw [rpage_bank0 hk, rpage_bank0 hs]
      simpa [BitVec.toNat_inj] using hne

/-- The frame of an interrupt entry, in the order it is pushed (R805, R807). -/
def entryFrame (b : Cpu) (k : IntKind) (ret : Word) : List Byte :=
  if b.e then [hi ret, lo ret, emuP k b.p] else [b.pbr, hi ret, lo ret, b.p]

theorem pushFrame_run (s : State) (k : IntKind) (ret : Word) :
    (pushFrame k ret).run s = ((entryFrame s.cpu k ret).forM push8).run s := by
  rw [pushFrame, bind_ok (getCpu_run s), entryFrame]
  cases he : s.cpu.e with
  | true => simp [push16]
  | false => simp [push16]

theorem toNat_sub_one {k : Word} (h : 1 ≤ k.toNat) : (k - 1).toNat = k.toNat - 1 :=
  BitVec.toNat_sub_of_le (BitVec.le_def.2 h)

/-- An entry's frame fits: in emulation mode in page 1, in native mode above address 0 (R102, R500). -/
theorem entryFrame_room {b : Cpu} (hok : b.Ok) (hs : b.e = false → 3 ≤ b.s.toNat ∧ b.s.toNat < 0x2000) (k : IntKind) (ret : Word) :
    Room b (entryFrame b k ret).length := by
  cases he : b.e with
  | true =>
    have hpage : mkWord 0x01 (lo b.s) = b.s := (hok.emulation he).2.2 ▸ mkWord_hi_lo b.s
    have hslots : slots b 3 = [lo b.s, lo b.s - 1, lo b.s - 1 - 1].map (mkWord 0x01) := by
      simp only [slots, decS_s, decS_e, he, if_true, lo_mkWord, List.map_cons, List.map_nil, hpage]
    have hdistinct : [lo b.s, lo b.s - 1, lo b.s - 1 - 1].Nodup := by
      simp only [List.nodup_cons, List.mem_cons, List.not_mem_nil, List.nodup_nil, or_false,
        not_false_eq_true, and_true]
      bv_omega
    rw [entryFrame, if_pos he]
    refine ⟨hslots ▸ hdistinct.map fun l l' h => ?_, fun a ha => ?_⟩
    · simpa only [lo_mkWord] using congrArg lo h
    · obtain ⟨l, -, rfl⟩ := List.mem_map.1 (hslots ▸ ha)
      have hl := l.isLt
      rw [mkWord, toNat_append, show (0x01 : Byte).toNat = 1 from rfl]
      omega
  | false =>
    obtain ⟨h3, h⟩ := hs he
    have hslots : slots b 4 = [b.s, b.s - 1, b.s - 1 - 1, b.s - 1 - 1 - 1] := by
      simp only [slots, decS_s, decS_e, he, Bool.false_eq_true, if_false]
    have h₁ := toNat_sub_one (k := b.s) (by omega)
    have h₂ := toNat_sub_one (k := b.s - 1) (by omega)
    have h₃ := toNat_sub_one (k := b.s - 1 - 1) (by omega)
    rw [entryFrame, if_neg (by simp [he]), Room]
    simp only [List.length_cons, List.length_nil, hslots, List.nodup_cons, List.mem_cons, List.not_mem_nil, List.nodup_nil,
      or_false, not_false_eq_true, and_true, ← BitVec.toNat_inj]
    exact ⟨by omega, fun k hk => by omega⟩

/-! ## The entry and its undoing -/

/-- A read of bank 0 above the I/O window has no effect (R210, R230). -/
theorem read8_bank0_high {s t : State} {k : Word} {v : Byte} (hk : 0x6000 ≤ k.toNat) (h : (read8 (mkAddr 0 k)).run s = .ok v t) :
    t = s := by
  have hout : ioWindow (bankOf (mkAddr 0 k)).toNat (offOf (mkAddr 0 k)).toNat = false := by
    rw [bankOf_mkAddr, offOf_mkAddr]
    exact Bool.eq_false_iff.2 fun hw => by have := ioWindow_iff.1 hw; omega
  cases hp : rpage s.cfg (mkAddr 0 k) with
  | none =>
    rw [read8_slow hp, ioRead_outside hout] at h
    cases h
  | some p =>
    rw [read8_mapped (v := regionRead s p.1 p.2) (by rw [State.byte?, hp]; rfl)] at h
    cases h
    rfl

theorem vector_high (k : IntKind) (e : Bool) : 0x6000 ≤ (vector k e).toNat ∧ 0x6000 ≤ (vector k e + 1).toNat := by
  cases k <;> cases e <;> decide

theorem readVector_state {s t : State} {k : IntKind} {e : Bool} {v : Word} (h : (readVector (vector k e)).run s = .ok v t) : t = s := by
  obtain ⟨l, s₁, h₁, h⟩ := ok_of_bind h
  obtain ⟨m, s₂, h₂, h⟩ := ok_of_bind h
  cases h
  exact (read8_bank0_high (vector_high k e).2 h₂).trans (read8_bank0_high (vector_high k e).1 h₁)

/-- After the pushes an entry changes registers alone (R805). -/
theorem interrupt_registers {s u t : State} {k : IntKind} {ret : Word} (hpush : (pushFrame k ret).run s = .ok () t)
    (h : (interrupt k ret).run s = .ok () u) :
    ∃ v, u = t.onCpu fun b => { b.enterInterrupt with pc := v, waiting := false } := by
  rw [interrupt, bind_ok hpush, bind_ok (onCpu_run _ t), bind_ok (getCpu_run _)] at h
  obtain ⟨v, w, hread, h⟩ := ok_of_bind h
  obtain rfl := readVector_state hread
  cases h
  exact ⟨v, rfl⟩

/-! ## The registers an entry leaves, and those RTI finds again -/

theorem and_low_of_hi {v : Word} (h : hi v = 0) : v &&& 0x00FF = v := by
  have hmask := mkWord_hi_lo_eq_masks 0 v
  have hv : mkWord (hi 0) (lo v) = v := (congrArg (mkWord · (lo v)) h).symm.trans (mkWord_hi_lo v)
  rw [hv, show (0 : Word) &&& 0xFF00 = 0#16 from rfl, BitVec.zero_or] at hmask
  exact hmask.symm

/-- `WriteP` of a status that leaves X as it is leaves the index registers as they are (R101, R620). -/
theorem withP_sameX {b : Cpu} (hok : b.Ok) {v : Byte} (hv : b.e = false → v.getLsbD fX = b.flag fX) :
    b.withP v = { b with p := if b.e then v ||| 0x30 else v } := by
  have hindex (h : (if b.e then v ||| 0x30 else v).getLsbD fX = true) : b.flag fX = true := by
    cases he : b.e with
    | true => exact (hok.emulation he).2.1
    | false => rwa [he, if_neg Bool.false_ne_true, hv he] at h
  have hkept (r : Word) (hr : b.flag fX = true → hi r = 0) :
      (if (if b.e then v ||| 0x30 else v).getLsbD fX then r &&& 0x00FF else r) = r :=
    ite_eq_right_iff.2 fun h => and_low_of_hi (hr (hindex h))
  exact congrArg₂ (fun x y => { b with p := if b.e then v ||| 0x30 else v, x := x, y := y })
    (hkept b.x fun h => (hok.index h).1) (hkept b.y fun h => (hok.index h).2)

/-- With M and X set, forcing them undoes what an entry does to them: nothing to the status itself, the B flag to the status pushed
(R620, R805, R807). -/
theorem or30_entry : ∀ p : Byte, p.getLsbD fM = true → p.getLsbD fX = true →
    ((p ||| 0x04) &&& ~~~0x08) ||| 0x30 = (p ||| 0x04) &&& ~~~0x08 ∧ ∀ k, emuP k p ||| 0x30 = p := by
  have hbytes : ∀ p : Byte, p.getLsbD fM = true → p.getLsbD fX = true →
      ((p ||| 0x04) &&& ~~~0x08) ||| 0x30 = (p ||| 0x04) &&& ~~~0x08 ∧ emuP .brk p ||| 0x30 = p ∧ emuP .nmi p ||| 0x30 = p := by
    decide +kernel
  intro p hM hX
  obtain ⟨hentry, hbrk, hother⟩ := hbytes p hM hX
  refine ⟨hentry, fun k => ?_⟩
  cases k with
  | brk => exact hbrk
  | cop | abort | nmi | irq => exact hother

theorem flagX_entry (p : Byte) : ((p ||| 0x04) &&& ~~~0x08).getLsbD fX = p.getLsbD fX := by
  simp [fX]

/-- The registers after an entry that finds `v` at its vector, but for S (R805). -/
def entered (b : Cpu) (v : Word) : Cpu := { b with p := (b.p ||| 0x04) &&& ~~~0x08, pbr := 0, pc := v, waiting := false }

/-- The registers after RTI has pulled P (R601). -/
def resumed (b : Cpu) (v : Word) : Cpu := { b with pbr := 0, pc := v, waiting := false }

theorem entered_decS_iterate (b : Cpu) (v : Word) (n : Nat) : entered (Cpu.decS^[n] b) v = Cpu.decS^[n] (entered b v) :=
  Function.Semiconj.iterate_right (f := (entered · v)) (fun _ => rfl) n b

theorem slots_entered (b : Cpu) (v : Word) (n : Nat) : slots (entered b v) n = slots b n := by
  induction n generalizing b with
  | zero => rfl
  | succ n ih => exact congrArg (b.s :: ·) (ih b.decS)

theorem decS_iterate_ok {b : Cpu} (h : b.Ok) (n : Nat) : (Cpu.decS^[n] b).Ok := by
  induction n generalizing b with
  | zero => exact h
  | succ n ih => exact ih h.decS

section Entered

variable {b : Cpu} (hok : b.Ok) (v : Word)

include hok

theorem enterInterrupt_entered : { b.enterInterrupt with pc := v, waiting := false } = entered b v := by
  have hX : ((b.p ||| 0x04) &&& ~~~0x08).getLsbD fX = b.flag fX := flagX_entry b.p
  rw [Cpu.enterInterrupt, writeP_eq_withP, withP_sameX hok fun _ => hX, entered]
  cases he : b.e with
  | true =>
    obtain ⟨hM, hX, -⟩ := hok.emulation he
    rw [if_pos rfl, (or30_entry b.p hM hX).1]
  | false => rfl

theorem resumed_ok : (resumed b v).Ok := hok.of_same rfl rfl rfl rfl rfl rfl

theorem entered_ok : (entered b v).Ok := by
  rw [← enterInterrupt_entered hok]
  exact (Cpu.enterInterrupt_ok hok).of_same rfl rfl rfl rfl rfl rfl

/-- The status an entry pushes brings the registers back (R601, R807). -/
theorem withP_entered (k : IntKind) : (entered b v).withP (if b.e then emuP k b.p else b.p) = resumed b v := by
  rw [withP_sameX (entered_ok hok v) fun he => ?_, entered, resumed]
  · cases he : b.e with
    | true =>
      obtain ⟨hM, hX, -⟩ := hok.emulation he
      rw [if_pos rfl, if_pos rfl, (or30_entry b.p hM hX).2]
    | false => rfl
  · have hnative : b.e = false := he
    rw [hnative, if_neg Bool.false_ne_true]
    exact (flagX_entry b.p).symm

end Entered

/-- What the pull of a word answers whose S two pushes from registers `b` have left (R501). -/
theorem pull16?_decS {t : State} {b : Cpu} {v : Word} (hb : b.Ok) (ht : t.cpu = b.decS.decS)
    (hhigh : t.byte? (mkAddr 0 b.s) = some (hi v)) (hlow : t.byte? (mkAddr 0 b.decS.s) = some (lo v)) :
    t.pull16? = some (v, { t with cpu := b }) := by
  have hsecond := pull8?_decS (t := { t with cpu := b.decS }) hb rfl hhigh
  rw [State.pull16?, pull8?_decS hb.decS ht hlow, Option.bind_some, hsecond, Option.map_some, mkWord_hi_lo]

/-- RTI's pulls of P and PC, from three bytes on the stack of registers `b` that `WriteP` makes `c` (R500, R601). -/
theorem rti_pulls {u : State} {b c : Cpu} {p : Byte} {ret : Word} (hb : b.Ok) (hc : c.Ok) (hcpu : u.cpu = b.decS.decS.decS)
    (hwrite : b.withP p = c) (hbytes : Holds u b [hi ret, lo ret, p]) :
    ∃ s₁, u.pull8? = some (p, s₁) ∧ (s₁.onCpu (·.withP p)).pull16? = some (ret, { u with cpu := c }) := by
  subst hwrite
  obtain ⟨hhigh, hrest⟩ := List.forall₂_cons.1 hbytes
  obtain ⟨hlow, hrest⟩ := List.forall₂_cons.1 hrest
  obtain ⟨hstatus, -⟩ := List.forall₂_cons.1 hrest
  exact ⟨_, pull8?_decS hb.decS.decS hcpu hstatus,
    pull16?_decS (t := { u with cpu := (b.withP p).decS.decS }) hc rfl hhigh hlow⟩

/-- What an entry leaves: its registers below the frame, and the frame on the stack, after the vector is read (R805, R807). -/
theorem interrupt_leaves {s u : State} {k : IntKind} {ret : Word} (hok : s.cpu.Ok) (hm : Memory.wf s = true)
    (hs : s.cpu.e = false → 3 ≤ s.cpu.s.toNat ∧ s.cpu.s.toNat < 0x2000) (h : (interrupt k ret).run s = .ok () u) :
    ∃ v, u.cpu = Cpu.decS^[(entryFrame s.cpu k ret).length] (entered s.cpu v) ∧
      Holds u (entered s.cpu v) (entryFrame s.cpu k ret) := by
  obtain ⟨t, hpush, hcpu, hholds, -⟩ := pushes_hold hm (entryFrame_room hok hs k ret)
  obtain ⟨v, rfl⟩ := interrupt_registers ((pushFrame_run s k ret).trans hpush) h
  refine ⟨v, ?_, ?_⟩
  · rw [onCpu_cpu, hcpu, ← entered_decS_iterate]
    exact enterInterrupt_entered (decS_iterate_ok hok _) v
  · rw [Holds, slots_entered]
    exact hholds

/-- Settles O17: RTI's pulls find the frame where the entry left it, byte by byte. -/
theorem rtiInvertsEntry : Obligations.RtiInvertsEntry := by
  intro s u k ret hok hm hs hrun
  obtain ⟨v, hregs, hframe⟩ := interrupt_leaves hok hm hs hrun
  have hback := withP_entered hok v k
  have hbefore := entered_ok hok v
  have hafter := resumed_ok hok v
  cases he : s.cpu.e with
  | true =>
    rw [entryFrame, if_pos he] at hregs hframe
    rw [if_pos he] at hback
    obtain ⟨s₁, hp, hpc⟩ := rti_pulls hbefore hafter hregs hback hframe
    exact ⟨_, (returnFromInterrupt u s₁ _ _ ret hp hpc).1 (hregs ▸ he), rfl, rfl⟩
  | false =>
    have hnative : ¬s.cpu.e = true := by simp [he]
    rw [entryFrame, if_neg hnative] at hregs hframe
    rw [if_neg hnative] at hback
    obtain ⟨hbank, hrest⟩ := List.forall₂_cons.1 hframe
    obtain ⟨s₁, hp, hpc⟩ := rti_pulls hbefore.decS hafter.decS hregs (congrArg Cpu.decS hback) hrest
    have hpbr := pull8?_decS (t := { u with cpu := (resumed s.cpu v).decS }) hafter rfl hbank
    exact ⟨_, (returnFromInterrupt u s₁ _ _ ret hp hpc).2 (hregs ▸ he) _ _ hpbr, rfl, rfl⟩

end Sys2Proof.Proofs

/-! # PROOFS. O48 and O49: the status, mode and system instructions (R620 to R634, R1070) -/

namespace Sys2Proof.Proofs

open Sys2Proof Sys2Proof.Machine Sys2Proof.Laws

/-- Forcing M and X leaves the other flags as they are (R620, R630). -/
theorem or30_other (p : Byte) {j : Nat} (hX : j ≠ fX) (hM : j ≠ fM) : (p ||| 0x30).getLsbD j = p.getLsbD j := by
  have hbits : ∀ j < 8, (0x30 : Byte).getLsbD j = true → j = fX ∨ j = fM := by decide
  have hother : (0x30 : Byte).getLsbD j = false :=
    Bool.eq_false_iff.2 fun h => (hbits j (BitVec.lt_of_getLsbD h) h).elim hX hM
  rw [BitVec.getLsbD_or, hother, Bool.or_false]

/-- XCE where C is 0 makes the mode native (R630). -/
theorem exchangeModes_native {b : Cpu} (hC : b.flag fC = false) :
    b.exchangeModes = { b with p := putBit fC b.e b.p, e := false } := by
  rw [Cpu.exchangeModes, hC]
  rfl

/-- XCE where C is 1 makes the mode emulation (R630). -/
theorem exchangeModes_emulation {b : Cpu} (hC : b.flag fC = true) :
    b.exchangeModes = { b with p := putBit fC b.e b.p ||| 0x30, e := true, x := b.x &&& 0x00FF, y := b.y &&& 0x00FF,
                               s := mkWord 0x01 (lo b.s) } := by
  rw [Cpu.exchangeModes, hC]
  rfl

/-- Settles O48: each instruction is one of registers alone; the single-flag ones differ in the bit they put, and XCE is
`Cpu.exchangeModes` in its two cases. -/
theorem flagInstructions : Obligations.FlagInstructions := by
  intro s v b
  obtain ⟨hC, hkept⟩ : OneFlag fC b.e b.p (putBit fC b.e b.p) := oneFlag_putBit (by decide) _ _
  refine ⟨fun e he => ?_, ?_, ?_, fun h => ⟨_, ?_, hC, hkept⟩, fun h => ⟨putBit fC b.e b.p ||| 0x30, ?_, ?_, ?_, ?_, ?_⟩⟩
  · obtain ⟨hexec, hbit⟩ : exec e.1 s = regInstr e.1 (·.setFlag e.2.1 e.2.2) s ∧ e.2.1 < 8 := by
      simp only [List.mem_cons, List.not_mem_nil, or_false] at he
      rcases he with rfl | rfl | rfl | rfl | rfl | rfl | rfl
      all_goals exact ⟨rfl, by decide⟩
    exact ⟨_, hexec.trans (regInstr_ended _ _ s), oneFlag_putBit hbit _ _⟩
  · rw [← writeP_eq_withP]
    exact regInstr_ended _ (fun b => b.writeP (b.p &&& ~~~v)) s
  · rw [← writeP_eq_withP]
    exact regInstr_ended _ (fun b => b.writeP (b.p ||| v)) s
  · rw [← exchangeModes_native h]
    exact regInstr_ended _ _ s
  · rw [← exchangeModes_emulation h]
    exact regInstr_ended _ _ s
  · rw [or30_other _ (by decide) (by decide), hC]
  · exact (Cpu.or30_flags _).1
  · exact (Cpu.or30_flags _).2
  · intro i hi hX hM
    rw [or30_other _ hX hM, hkept i hi]

/-- The default cost of an opcode to which R1070 adds no cycles. -/
theorem cpuCycles_base {op : Byte} {n : Nat} (hrow : cycleRow op = ⟨n, []⟩) (b : Cpu) (f : Facts) : cpuCycles op b f = n := by
  rw [cpuCycles, hrow]
  rfl

/-- Settles O49: the four are instructions of registers alone, each with a row of R1070 that adds nothing. -/
theorem noOperationAndHalts : Obligations.NoOperationAndHalts := by
  intro s v
  refine ⟨regInstr_ended _ _ s, regInstr_ended _ _ s, regInstr_ended _ _ s, regInstr_ended _ _ s, fun hcosts e he => ?_⟩
  obtain ⟨op, hop, hrow⟩ : ∃ op, e.1.opcode? = some op ∧ cycleRow op = ⟨e.2, []⟩ := by
    simp only [List.mem_cons, List.not_mem_nil, or_false] at he
    rcases he with rfl | rfl | rfl | rfl
    all_goals exact ⟨_, rfl, rfl⟩
  exact (instrCost_default hcosts hop _ _).trans (cpuCycles_base hrow _ _)

end Sys2Proof.Proofs

/-! # PROOFS. The audio side: sequences, what an access keeps, flags (R120 to R123, R650 to R653, R980, R985) -/

namespace Sys2Proof.Proofs

open Sys2Proof Sys2Proof.Machine Sys2Proof.Laws

/-! ## Running an audio operation -/

section AudioRun

variable {α β : Type} {s : State} {u t : Apu} {a : α}

/-- A sequence goes on from where its first part ended. -/
theorem audioOn_bind {x : A α} {f : α → A β} (h : s.audioOn u x = (a, t)) : s.audioOn u (x >>= f) = s.audioOn t (f a) :=
  congrArg (fun p => s.audioOn p.2 (f p.1)) h

theorem audio_bind {x : A α} {f : α → A β} (h : s.audio x = (a, t)) : s.audio (x >>= f) = s.audioOn t (f a) :=
  audioOn_bind h

@[simp] theorem audioOn_pure (s : State) (u : Apu) (a : α) : s.audioOn u (pure a) = (a, u) := rfl

@[simp] theorem audioOn_get_bind (s : State) (u : Apu) (f : Apu → A β) : s.audioOn u (get >>= f) = s.audioOn u (f u) := rfl

@[simp] theorem audioOn_modify_bind (s : State) (u : Apu) (g : Apu → Apu) (f : Unit → A β) :
    s.audioOn u (modify g >>= f) = s.audioOn (g u) (f ()) := rfl

@[simp] theorem audioOn_dpAddr_bind (s : State) (u : Apu) (o : Byte) (f : Word → A β) :
    s.audioOn u (dpAddr o >>= f) = s.audioOn u (f (u.page + zext o)) := rfl

@[simp] theorem audioOn_setAflag_bind (s : State) (u : Apu) (j : Nat) (b : Bool) (f : Unit → A β) :
    s.audioOn u (setAflag j b >>= f) = s.audioOn { u with psw := putBit j b u.psw } (f ()) := rfl

theorem audio_eq (s : State) (x : A α) : s.audio x = s.audioOn s.apu x := rfl

/-- An audio instruction is its body, then its cost (R650, R980). -/
theorem exec_audioBody {i : Instr} {body : A Bool} (h : audioBody i = some body) (s : State) : exec i s = runAudio i body s := by
  cases i <;> cases h
  all_goals rfl

theorem exec_audioEnded {i : Instr} {body : A Bool} {taken : Bool} (hb : audioBody i = some body)
    (h : s.audio body = (taken, u)) : exec i s = .next (s.audioEnded i taken u) := by
  rw [exec_audioBody hb]
  exact congrArg (fun p => Host.Outcome.next (s.audioEnded i p.1 p.2)) h

end AudioRun

/-! ## What an access keeps -/

section AudioKeeps

variable {α β γ : Type}

/-- Every run of `m` leaves the part of the audio side as it stands. -/
def KeepsPart (part : Apu → γ) (m : A α) : Prop := ∀ cfg u, part ((m.run cfg).run u).2 = part u

/-- The audio CPU's registers (R120 to R123). -/
structure AudioRegs where
  a   : Byte
  x   : Byte
  y   : Byte
  sp  : Byte
  psw : Byte
  pc  : Word

/-- The registers of an audio side. -/
def audioRegs (u : Apu) : AudioRegs := ⟨u.a, u.x, u.y, u.sp, u.psw, u.pc⟩

/-- The registers and RAM (R120 to R123, R130). -/
def audioRegsRam (u : Apu) : AudioRegs × Cells Byte := (audioRegs u, u.aram)

variable {part : Apu → γ}

theorem KeepsPart.pure (a : α) : KeepsPart part (Pure.pure a : A α) := fun _ _ => rfl

theorem KeepsPart.bind {x : A α} {f : α → A β} (hx : KeepsPart part x) (hf : ∀ a, KeepsPart part (f a)) :
    KeepsPart part (x >>= f) := fun cfg u => (hf _ cfg _).trans (hx cfg u)

theorem KeepsPart.of_get (f : Apu → α) : KeepsPart part (do return f (← get) : A α) := fun _ _ => rfl

theorem KeepsPart.get_bind {f : Apu → A β} (hf : ∀ v, KeepsPart part (f v)) : KeepsPart part (get >>= f) :=
  fun cfg u => hf u cfg u

theorem KeepsPart.modify {f : Apu → Apu} (h : ∀ u, part (f u) = part u) : KeepsPart part (modify f : A Unit) := fun _ u => h u

/-- What keeps a part keeps what is computed from it. -/
theorem KeepsPart.comp {δ : Type} {m : A α} (h : KeepsPart part m) (f : γ → δ) : KeepsPart (f ∘ part) m :=
  fun cfg u => congrArg f (h cfg u)

theorem KeepsPart.of_audioOn {m : A α} (h : KeepsPart part m) {s : State} {u t : Apu} {a : α} (hrun : s.audioOn u m = (a, t)) :
    part t = part u := (congrArg (fun p => part p.2) hrun).symm.trans (h s.cfg u)

/-- The direct page is chosen by a flag (R651). -/
theorem page_of_regs {t u : Apu} (h : audioRegs t = audioRegs u) : t.page = u.page :=
  congrArg (fun r => if r.psw.getLsbD aP then (0x0100 : Word) else 0x0000) h

theorem onTimer_regsRam (t : Nat) (f : Timer → Timer) (u : Apu) : audioRegsRam (u.onTimer t f) = audioRegsRam u := by
  unfold Apu.onTimer
  split <;> rfl

theorem timerUpdate_keepsRegsRam (t : Nat) : KeepsPart audioRegsRam (timerUpdate t) := fun _ u => onTimer_regsRam t _ u

theorem timerRead_keepsRegsRam (t : Nat) : KeepsPart audioRegsRam (timerRead t) :=
  .bind (timerUpdate_keepsRegsRam t) fun _ _ u => onTimer_regsRam t _ u

theorem targetWrite_keepsRegsRam (t : Nat) (v : Byte) : KeepsPart audioRegsRam (targetWrite t v) :=
  .bind (timerUpdate_keepsRegsRam t) fun _ => .modify fun u => onTimer_regsRam t _ u

theorem controlWrite_keepsRegsRam (v : Byte) : KeepsPart audioRegsRam (controlWrite v) :=
  .bind (timerUpdate_keepsRegsRam 0) fun _ => .bind (timerUpdate_keepsRegsRam 1) fun _ =>
    .bind (timerUpdate_keepsRegsRam 2) fun _ => .modify fun _ => rfl

/-- Reading an I/O register moves timers and draws alone (R986). -/
theorem ioRegRead_keepsRegsRam (a : Word) : KeepsPart audioRegsRam (ioRegRead a) := by
  unfold ioRegRead
  split
  case h_8 => exact timerRead_keepsRegsRam 0
  case h_9 => exact timerRead_keepsRegsRam 1
  case h_10 => exact timerRead_keepsRegsRam 2
  all_goals exact fun _ _ => rfl

/-- Writing an I/O register reaches no RAM and no register of the CPU (R986). -/
theorem ioRegWrite_keepsRegsRam (a : Word) (v : Byte) : KeepsPart audioRegsRam (ioRegWrite a v) := by
  unfold ioRegWrite
  split
  case h_2 => exact controlWrite_keepsRegsRam v
  case h_4 =>
    refine .modify fun u => ?_
    split <;> rfl
  case h_11 => exact targetWrite_keepsRegsRam 0 v
  case h_12 => exact targetWrite_keepsRegsRam 1 v
  case h_13 => exact targetWrite_keepsRegsRam 2 v
  all_goals exact fun _ _ => rfl

theorem aread_keepsRegs (a : Word) : KeepsPart audioRegs (aread a) := by
  unfold aread
  split
  · exact (ioRegRead_keepsRegsRam a).comp Prod.fst
  · exact .of_get _

/-- A write reaches the one RAM byte, whatever else it does (R985). -/
theorem awrite_regsRam (a : Word) (v : Byte) (cfg : Config) (u : Apu) :
    audioRegsRam (((awrite a v).run cfg).run u).2 = (audioRegs u, Cells.write 0 a.toNat v u.aram) := by
  unfold awrite
  split
  · exact congrArg (fun p => (p.1, Cells.write 0 a.toNat v p.2)) (ioRegWrite_keepsRegsRam a v cfg u)
  · rfl

theorem awrite_keepsRegs (a : Word) (v : Byte) : KeepsPart audioRegs (awrite a v) :=
  fun cfg u => congrArg Prod.fst (awrite_regsRam a v cfg u)

theorem dpPtr_keepsRegs (o : Byte) : KeepsPart audioRegs (dpPtr o) :=
  .get_bind fun _ => .bind (aread_keepsRegs _) fun _ => .get_bind fun _ => .bind (aread_keepsRegs _) fun _ => .pure _

/-- Computing an effective address may read a pointer, and no more (R651). -/
theorem aaddr_keepsRegs (m : AMode) : KeepsPart audioRegs (aaddr m) := by
  cases m with
  | idx o => exact .get_bind fun _ => dpPtr_keepsRegs _
  | idy o => exact .bind (dpPtr_keepsRegs o) fun _ => .of_get _
  | _ => exact fun _ _ => rfl

theorem asrc_keepsRegs (src : ASrc) : KeepsPart audioRegs (asrc src) := by
  cases src with
  | imm i => exact .pure i
  | mem m => exact .bind (aaddr_keepsRegs m) fun _ => aread_keepsRegs _

end AudioKeeps

section AudioAccess

variable {s : State} {u : Apu} {a : Word} {v : Byte}

/-- A read of no I/O register gives RAM, or boot ROM where it is mapped, and changes nothing (R985). -/
theorem aread_of_byte? (h : u.byte? a = some v) : s.audioOn u (aread a) = (v, u) := by
  unfold Apu.byte? at h
  split at h
  case isTrue => cases h
  case isFalse hio =>
    cases h
    rw [aread, if_neg hio]
    rfl

/-- A write to no I/O register reaches RAM alone (R985). -/
theorem awrite_of_byte? (h : u.byte? a ≠ none) (v : Byte) : s.audioOn u (awrite a v) = ((), u.putRam a v) := by
  unfold Apu.byte? at h
  split at h
  case isTrue => exact absurd rfl h
  case isFalse hio =>
    rw [awrite, if_neg hio]
    rfl

/-- Two reads of no I/O register give a word of the direct page, its second byte wrapping in the page (R651). -/
theorem dpPtr_of_byte? {o l h : Byte} (hl : u.byte? (u.page + zext o) = some l) (hh : u.byte? (u.page + zext (o + 1)) = some h) :
    s.audioOn u (dpPtr o) = (mkWord h l, u) := by
  have hlow : s.audioOn u (aread (u.page + zext o)) = (l, u) := aread_of_byte? hl
  have hhigh : s.audioOn u (aread (u.page + zext (o + 1))) = (h, u) := aread_of_byte? hh
  rw [dpPtr, audioOn_dpAddr_bind, audioOn_bind hlow, audioOn_dpAddr_bind, audioOn_bind hhigh, audioOn_pure]

end AudioAccess

/-! ## N and Z (R653) -/

/-- `psw` with n the top bit and z the zero-ness of a byte. -/
def pswNz (v p : Byte) : Byte := putBit aZ (decide (v = 0)) (putBit aN (v.getLsbD 7) p)

/-- `psw` with n the top bit and z the zero-ness of a word. -/
def pswNz16 (v : Word) (p : Byte) : Byte := putBit aZ (decide (v = 0)) (putBit aN (v.getLsbD 15) p)

theorem setnz_run (s : State) (u : Apu) (v : Byte) : s.audioOn u (setnz v) = ((), { u with psw := pswNz v u.psw }) := rfl

theorem setnz16_run (s : State) (u : Apu) (v : Word) : s.audioOn u (setnz16 v) = ((), { u with psw := pswNz16 v u.psw }) := rfl

section Flags

variable {p p' : Byte} {others : List Nat}

/-- N and Z put on a status word that agrees with `p` outside the flags listed. -/
theorem nzAfter_putBits (h : ∀ j, j ≠ 7 → j ≠ 1 → j ∉ others → p'.getLsbD j = p.getLsbD j) {v : Word} {w : Width} {n z : Bool}
    (hn : n = v.getLsbD (w.bits - 1)) (hz : z = decide (v &&& w.mask = 0)) :
    NzAfter p (putBit aZ z (putBit aN n p')) v w others := by
  have hbit : ∀ j, (putBit aZ z (putBit aN n p')).getLsbD j = if j = 1 then z else if j = 7 then n else p'.getLsbD j := by
    intro j
    rw [putBit_getLsbD (by decide), putBit_getLsbD (by decide)]
  refine ⟨(hbit 7).trans hn, (hbit 1).trans hz, fun j h7 h1 hj => ?_⟩
  rw [hbit, if_neg h1, if_neg h7, h j h7 h1 hj]

theorem pswNz_after (h : ∀ j, j ≠ 7 → j ≠ 1 → j ∉ others → p'.getLsbD j = p.getLsbD j) (v : Byte) :
    NzAfter p (pswNz v p') (zext v) .w8 others := by
  refine nzAfter_putBits h ?_ (decide_eq_decide.2 ?_)
  · simp [zext, Width.bits]
  · have hmask : zext v &&& Width.w8.mask = zext v := by
      apply BitVec.eq_of_toNat_eq
      rw [BitVec.toNat_and, mask_toNat, Nat.and_two_pow_sub_one_eq_mod, zext, BitVec.toNat_setWidth]
      exact Nat.mod_eq_of_lt (by have := v.isLt; simp only [Width.bits]; omega)
    rw [hmask, ← BitVec.toNat_inj, ← BitVec.toNat_inj, zext, BitVec.toNat_setWidth, Nat.mod_eq_of_lt (by have := v.isLt; omega)]
    rfl

theorem pswNz16_after (h : ∀ j, j ≠ 7 → j ≠ 1 → j ∉ others → p'.getLsbD j = p.getLsbD j) (v : Word) :
    NzAfter p (pswNz16 v p') v .w16 others :=
  nzAfter_putBits h rfl (by rw [show v &&& Width.w16.mask = v from trunc16 v])

/-- N and Z set on an unchanged status word. -/
theorem pswNz_nzAfter (v p : Byte) : NzAfter p (pswNz v p) (zext v) .w8 [] := pswNz_after (fun _ _ _ _ => rfl) v

theorem pswNz16_nzAfter (v : Word) (p : Byte) : NzAfter p (pswNz16 v p) v .w16 [] := pswNz16_after (fun _ _ _ _ => rfl) v

/-- Every other flag is as it was. -/
theorem pswNz_other (v p : Byte) {j : Nat} (h7 : j ≠ 7) (h1 : j ≠ 1) : (pswNz v p).getLsbD j = p.getLsbD j :=
  (pswNz_nzAfter v p).2.2 j h7 h1 List.not_mem_nil

theorem pswNz16_other (v : Word) (p : Byte) {j : Nat} (h7 : j ≠ 7) (h1 : j ≠ 1) : (pswNz16 v p).getLsbD j = p.getLsbD j :=
  (pswNz16_nzAfter v p).2.2 j h7 h1 List.not_mem_nil

/-- N and Z set after a carry. -/
theorem pswNz_carry (v p : Byte) (c : Bool) :
    NzAfter p (pswNz v (putBit aC c p)) (zext v) .w8 [0] ∧ (pswNz v (putBit aC c p)).getLsbD 0 = c := by
  obtain ⟨hc, hother⟩ := oneFlag_putBit (j := aC) (by decide) c p
  exact ⟨pswNz_after (fun j _ _ hj => hother j (by simpa using hj)) v, (pswNz_other _ _ (by decide) (by decide)).trans hc⟩

theorem pswNz16_carry (v : Word) (p : Byte) (c : Bool) :
    NzAfter p (pswNz16 v (putBit aC c p)) v .w16 [0] ∧ (pswNz16 v (putBit aC c p)).getLsbD 0 = c := by
  obtain ⟨hc, hother⟩ := oneFlag_putBit (j := aC) (by decide) c p
  exact ⟨pswNz16_after (fun j _ _ hj => hother j (by simpa using hj)) v, (pswNz16_other _ _ (by decide) (by decide)).trans hc⟩

end Flags

end Sys2Proof.Proofs

/-! # PROOFS. O50: an audio instruction, its cost and its fetch (R650, R763, R1071) -/

namespace Sys2Proof.Proofs

open Sys2Proof Sys2Proof.Machine Sys2Proof.Laws

theorem audioBody_of_isAudio {i : Instr} (h : i.isAudio = true) : ∃ body, audioBody i = some body := by
  cases i <;> cases h
  all_goals exact ⟨_, rfl⟩

/-- A well-formed audio instruction has an opcode, for its encoding is read back (R300). -/
theorem opcode?_of_isAudio {i : Instr} (ha : i.isAudio = true) (hw : i.wf = true) : i.opcode?.isSome := by
  have hdec : decodeAudio (encode i ++ []) = some (i, []) := (roundTrip i hw true true []).2 ha
  cases hop : i.opcode? with
  | some op => rfl
  | none =>
    rw [encode, hop] at hdec
    cases hdec

theorem audioCode?_cons {u : Apu} {n : Nat} {a : Word} {v : Byte} {vs : List Byte} (h : u.code? (n + 1) a = some (v :: vs)) :
    u.byte? a = some v ∧ u.code? n (a + 1) = some vs := by
  obtain ⟨v', hv, hvs⟩ := Option.bind_eq_some_iff.1 h
  obtain ⟨vs', hvs', heq⟩ := Option.map_eq_some_iff.1 hvs
  cases heq
  exact ⟨hv, hvs'⟩

theorem audioCode?_setPc (u : Apu) (pc : Word) (n : Nat) (a : Word) : Apu.code? { u with pc := pc } n a = u.code? n a := by
  induction n generalizing a with
  | zero => rfl
  | succ n ih => exact congrArg (fun bs => (u.byte? a).bind fun v => bs.map (v :: ·)) (ih (a + 1))

section AudioFetch

variable {s : State} {u : Apu} {op v : Byte}

theorem afetch_of_byte? (h : u.byte? u.pc = some v) : s.audioOn u afetch = (v, { u with pc := u.pc + 1 }) :=
  aread_of_byte? (u := { u with pc := u.pc + 1 }) h

/-- A fetch leaves pc past the byte, whatever the read does (R650). -/
theorem afetch_pc (h : s.audio afetch = (op, u)) : u.pc = s.apu.pc + 1 :=
  congrArg AudioRegs.pc ((aread_keepsRegs s.apu.pc).of_audioOn (u := { s.apu with pc := s.apu.pc + 1 }) h)

/-- Fetches of bytes of no I/O register read them and move pc past them (R650). -/
theorem afetchN_of_code? {vs : List Byte} (h : u.code? vs.length u.pc = some vs) :
    s.audioOn u (afetchN vs.length) = (vs, { u with pc := u.pc + BitVec.ofNat 16 vs.length }) := by
  induction vs generalizing u with
  | nil =>
    rw [List.length_nil, BitVec.add_zero]
    rfl
  | cons v vs ih =>
    obtain ⟨hv, hvs⟩ := audioCode?_cons h
    rw [← audioCode?_setPc u (u.pc + 1)] at hvs
    rw [List.length_cons, afetchN, audioOn_bind (afetch_of_byte? hv), audioOn_bind (ih hvs)]
    simp only [BitVec.add_assoc, Nat.add_comm vs.length 1, BitVec.ofNat_add]
    rfl

/-- The operand bytes a fetch reads are as many as the instruction they make up has. -/
theorem decodeAudio_operands {bs : List Byte} {i : Instr} (h : decodeAudio (op :: bs) = some (i, [])) :
    ((audioShape op).map (·.operands true true)).getD 0 = bs.length := by
  obtain ⟨sh, hsh, hb⟩ := Option.bind_eq_some_iff.1 h
  rw [hsh, build_length hb]
  rfl

/-- What an entry builds is its instruction with some operand (R311). -/
theorem build_instr {sh : Shape} {m x : Bool} {bs rest : List Byte} {i : Instr} (h : sh.build m x bs = some (i, rest)) :
    ∃ v, sh.instr v = i := by
  unfold Shape.build at h
  split at h
  case h_6 | h_7 =>
    split_ifs at h
    · cases h
      exact ⟨_, rfl⟩
    · split at h
      · cases h
        exact ⟨_, rfl⟩
      · cases h
  case h_9 => cases h
  case h_1 =>
    cases h
    exact ⟨(), rfl⟩
  case h_5 | h_8 =>
    cases h
    exact ⟨(_, _), rfl⟩
  all_goals
    cases h
    exact ⟨_, rfl⟩

/-- A decoded audio instruction is one of the audio CPU (R313). -/
theorem decodeAudio_isAudio {bs rest : List Byte} {i : Instr} (h : decodeAudio (op :: bs) = some (i, rest)) :
    i.isAudio = true := by
  obtain ⟨sh, hsh, hb⟩ := Option.bind_eq_some_iff.1 h
  obtain ⟨sh', hsh', hv⟩ := audioRows_encode op
  obtain rfl : sh' = sh := Option.some.inj (hsh'.symm.trans hsh)
  obtain ⟨v, rfl⟩ := build_instr hb
  exact (hv v).isAudio

/-- A step runs the instruction its code bytes decode to, with pc past them (R650). -/
theorem audioInstruction_of_code? {bs : List Byte} {i : Instr} {body : A Bool}
    (hcode : s.apu.code? (bs.length + 1) s.apu.pc = some (op :: bs)) (hop : op ∉ s.cfg.unimplSpcOps)
    (hdec : decodeAudio (op :: bs) = some (i, [])) (hbody : audioBody i = some body) :
    audioInstruction s.cfg s.apu =
      (audioFinish i body s.cfg { s.apu with pc := s.apu.pc + BitVec.ofNat 16 (bs.length + 1) }, none) := by
  obtain ⟨hv, hvs⟩ := audioCode?_cons hcode
  rw [← audioCode?_setPc s.apu (s.apu.pc + 1)] at hvs
  have hfetch : (afetch.run s.cfg).run s.apu = (op, { s.apu with pc := s.apu.pc + 1 }) := afetch_of_byte? (s := s) hv
  have hrest : ((afetchN bs.length).run s.cfg).run { s.apu with pc := s.apu.pc + 1 } =
      (bs, { s.apu with pc := s.apu.pc + BitVec.ofNat 16 (bs.length + 1) }) := by
    refine (afetchN_of_code? (s := s) hvs).trans ?_
    simp only [BitVec.add_assoc, Nat.add_comm bs.length 1, BitVec.ofNat_add]
    rfl
  have hcontains : ¬s.cfg.unimplSpcOps.contains op = true := by simpa using hop
  rw [audioInstruction, hfetch]
  dsimp only
  rw [if_neg hcontains, decodeAudio_operands hdec, hrest]
  dsimp only
  rw [hdec, Option.bind_some, hbody]
  rfl

/-- Once an unimplemented opcode is fetched nothing more happens (R763, R830; log 11). -/
theorem audioInstruction_unimplemented (hop : op ∈ s.cfg.unimplSpcOps) (h : s.audio afetch = (op, u)) :
    audioInstruction s.cfg s.apu = (u, some (.fatal (.unimplementedSpcOpcode s.apu.pc op))) := by
  have hfetch : (afetch.run s.cfg).run s.apu = (op, u) := h
  have hcontains : s.cfg.unimplSpcOps.contains op = true := by simpa using hop
  rw [audioInstruction, hfetch]
  dsimp only
  rw [if_pos hcontains, afetch_pc h, BitVec.add_sub_cancel]

end AudioFetch

/-- Settles O50: the body of an audio instruction runs on the audio side alone, and a fetch of code bytes answers them. -/
theorem audioInstructionsRun : Obligations.AudioInstructionsRun := by
  refine ⟨fun i s ha hw => ⟨?_, fun hc => ?_⟩, fun s i op bs hcode hop hdec => ?_, fun s op hop => ⟨fun hv => ?_, fun u h => ?_⟩⟩
  · obtain ⟨body, hbody⟩ := audioBody_of_isAudio ha
    exact ⟨_, (s.audio body).1, exec_audioEnded hbody rfl, rfl⟩
  · exact audioCost_ge (Nat.le_refl 2) hc (opcode?_of_isAudio ha hw)
  · obtain ⟨body, hbody⟩ := audioBody_of_isAudio (decodeAudio_isAudio hdec)
    rw [audioInstruction_of_code? hcode hop hdec hbody]
    exact ⟨rfl, exec_audioBody hbody _⟩
  · exact audioInstruction_unimplemented hop (afetch_of_byte? hv)
  · exact audioInstruction_unimplemented hop h

end Sys2Proof.Proofs

/-! # PROOFS. O51: the audio bus, effective addresses and operands (R651, R652, R659, R985) -/

namespace Sys2Proof.Proofs

open Sys2Proof Sys2Proof.Machine Sys2Proof.Laws

/-- The left operand is the accumulator, which reading the right one leaves alone (R659). -/
theorem aluOperands_acc {s : State} {src : ASrc} {r : Byte} {t : Apu} (h : s.audio (asrc src) = (r, t)) :
    s.audio (aluOperands (.acc src)) = ((s.apu.a, r, none), t) := by
  have ha : t.a = s.apu.a := congrArg AudioRegs.a ((asrc_keepsRegs src).of_audioOn h)
  rw [aluOperands, audio_bind h, ← ha, audioOn_get_bind, audioOn_pure]

/-- Settles O51: addresses that read no pointer are computed from the registers, and each operand is a read or two in order. -/
theorem audioAccesses : Obligations.AudioAccesses := by
  intro s a o v u page
  have hpage : page = u.page := rfl
  clear_value page
  subst hpage
  have hram : (s.audio (awrite a v)).2.aram = Cells.write 0 a.toNat v u.aram :=
    congrArg Prod.snd (awrite_regsRam a v s.cfg u)
  refine ⟨fun r h => aread_of_byte? h, fun h => awrite_of_byte? h v, fun hwf => ?_, rfl, rfl, rfl, rfl, rfl, rfl, rfl,
    fun l h hl hh => ?_, fun l h hl hh => ?_, rfl, fun m e t h => audio_bind h, fun src r t h => aluOperands_acc h,
    fun d r t l w hr hl => ?_, fun l t hl => ?_, fun r t l w hr hl => ?_, rfl, rfl, fun l t h w hl hh => ?_,
    fun w t hl => ?_⟩
  · rw [hram]
    exact ⟨read_write_same hwf, fun b hb => read_write_other (fun heq => hb (BitVec.eq_of_toNat_eq heq)) _⟩
  · rw [aaddr, audio_eq, audioOn_get_bind]
    exact dpPtr_of_byte? hl hh
  · rw [aaddr, audio_bind (dpPtr_of_byte? hl hh), audioOn_get_bind, audioOn_pure]
  · have hpage := page_of_regs ((aread_keepsRegs _).of_audioOn hr)
    rw [aluOperands, audio_eq, audioOn_dpAddr_bind, audioOn_bind hr, audioOn_dpAddr_bind, hpage, audioOn_bind hl, audioOn_pure]
  · rw [aluOperands, audio_eq, audioOn_dpAddr_bind, audioOn_bind hl, audioOn_pure]
  · rw [aluOperands, audio_eq, audioOn_get_bind, audioOn_bind hr, audioOn_bind hl, audioOn_pure]
  · have hpage := page_of_regs ((aread_keepsRegs _).of_audioOn hl)
    rw [wordRead, dpPtr, audio_eq, audioOn_dpAddr_bind, audioOn_bind hl, audioOn_dpAddr_bind, hpage, audioOn_bind hh, audioOn_pure]
  · have hpage := page_of_regs ((awrite_keepsRegs _ _).of_audioOn hl)
    rw [wordWrite, audio_eq, audioOn_dpAddr_bind, audioOn_bind hl, audioOn_dpAddr_bind, hpage]

end Sys2Proof.Proofs

/-! # PROOFS. O53: the audio ALU operations (R653, R659 to R665) -/

namespace Sys2Proof.Proofs

open Sys2Proof Sys2Proof.Machine Sys2Proof.Laws

/-! ## Adding bytes -/

/-- The 8-bit sum with carry (R653). -/
def byteSum (l r : Byte) (c : Bool) : Byte := l + r + (if c then 1 else 0)

/-- The status word `q` after adding `l`, `r` and the carry `c` where it was `p` (R653). -/
structure ByteSumFlags (l r : Byte) (c : Bool) (p q : Byte) : Prop where
  nz       : NzAfter p q (zext (byteSum l r c)) .w8 [0, 3, 6]
  carry    : q.getLsbD 0 = decide (256 ≤ l.toNat + r.toNat + c.toNat)
  half     : q.getLsbD 3 = decide (16 ≤ l.toNat % 16 + r.toNat % 16 + c.toNat)
  overflow : q.getLsbD 6 =
    (decide (l.toInt + r.toInt + (c.toNat : Int) < -128) || decide (128 ≤ l.toInt + r.toInt + (c.toNat : Int)))

section ByteSum

variable (l r : Byte) (c : Bool)

theorem byteSum_toNat : (byteSum l r c).toNat = (l.toNat + r.toNat + c.toNat) % 256 := by
  cases c <;> simp [byteSum]

theorem ofNat_aSum : BitVec.ofNat 8 (aSum l r c) = byteSum l r c :=
  BitVec.eq_of_toNat_eq (byteSum_toNat l r c).symm

/-- The half carry is what the sum's bit 4 has beyond the operands' (R653). -/
theorem byteSum_half : (l ^^^ r ^^^ byteSum l r c).getLsbD 4 = decide (16 ≤ l.toNat % 16 + r.toNat % 16 + c.toNat) := by
  have hsum : byteSum l r c = l + r + BitVec.setWidth 8 (BitVec.ofBool c) := by cases c <;> rfl
  have hbit : (byteSum l r c).getLsbD 4 = _ := hsum ▸ BitVec.getLsbD_add_add_bool (by decide) l r c
  rw [BitVec.getLsbD_xor, BitVec.getLsbD_xor, hbit]
  show _ = BitVec.carry 4 l r c
  generalize BitVec.carry 4 l r c = carry, l.getLsbD 4 = x, r.getLsbD 4 = y
  decide +revert

/-- Operands that agree in their top bit, and a sum that does not, are a signed overflow (R653). -/
theorem byteSum_overflow : (~~~(l ^^^ r) &&& (l ^^^ byteSum l r c)).getLsbD 7 =
    (decide (l.toInt + r.toInt + (c.toNat : Int) < -128) || decide (128 ≤ l.toInt + r.toInt + (c.toNat : Int))) := by
  have hc := c.toNat_le
  have hl := l.isLt
  have hr := r.isLt
  have hsum := byteSum_toNat l r c
  have hbit : ∀ b : Byte, b.getLsbD 7 = decide (128 ≤ b.toNat) := fun b => BitVec.msb_eq_decide b
  have htop : ∀ x y z : Bool, (!(x ^^ y) && (x ^^ z)) = (x == y && x != z) := by decide
  rw [BitVec.getLsbD_and, BitVec.getLsbD_not, BitVec.getLsbD_xor, BitVec.getLsbD_xor, decide_eq_true (by decide), Bool.true_and,
    htop, hbit, hbit, hbit, hsum, Bool.eq_iff_iff]
  simp only [BitVec.toInt_eq_toNat_cond, Bool.and_eq_true, beq_iff_eq, bne_iff_ne, ne_eq, decide_eq_decide, Bool.or_eq_true,
    decide_eq_true_eq]
  split_ifs <;> omega

end ByteSum

/-- `psw` with v, h and c set for a sum (R653). -/
def sumPsw (l r : Byte) (c : Bool) (p : Byte) : Byte :=
  putBit aC (decide (aSum l r c > 0xFF))
    (putBit aH ((l ^^^ r ^^^ byteSum l r c).getLsbD 4) (putBit aV ((~~~(l ^^^ r) &&& (l ^^^ byteSum l r c)).getLsbD 7) p))

theorem sumPsw_getLsbD (l r : Byte) (c : Bool) (p : Byte) (j : Nat) : (sumPsw l r c p).getLsbD j =
    if j = 0 then decide (aSum l r c > 0xFF) else if j = 3 then (l ^^^ r ^^^ byteSum l r c).getLsbD 4
    else if j = 6 then (~~~(l ^^^ r) &&& (l ^^^ byteSum l r c)).getLsbD 7 else p.getLsbD j := by
  rw [sumPsw, putBit_getLsbD (by decide), putBit_getLsbD (by decide), putBit_getLsbD (by decide)]

theorem sumPsw_flags (l r : Byte) (c : Bool) (p : Byte) : ByteSumFlags l r c p (pswNz (byteSum l r c) (sumPsw l r c p)) where
  nz := by
    refine pswNz_after (fun j _ _ hj => ?_) _
    simp only [List.mem_cons, List.not_mem_nil, or_false, not_or] at hj
    obtain ⟨h0, h3, h6⟩ := hj
    rw [sumPsw_getLsbD, if_neg h0, if_neg h3, if_neg h6]
  carry := by
    rw [pswNz_other _ _ (by decide) (by decide), sumPsw_getLsbD]
    rfl
  half := by
    rw [pswNz_other _ _ (by decide) (by decide), sumPsw_getLsbD]
    exact byteSum_half l r c
  overflow := by
    rw [pswNz_other _ _ (by decide) (by decide), sumPsw_getLsbD]
    exact byteSum_overflow l r c

/-- What `Adc` answers and leaves (R653). -/
theorem aAdc8_run (s : State) (u : Apu) (l r : Byte) : ∃ q,
    s.audioOn u (aAdc8 l r) = (byteSum l r (u.psw.getLsbD 0), { u with psw := q }) ∧
      ByteSumFlags l r (u.psw.getLsbD 0) u.psw q := by
  refine ⟨_, ?_, sumPsw_flags l r _ u.psw⟩
  rw [sumPsw, ← ofNat_aSum]
  rfl

/-! ## The instructions -/

section AluBodies

variable {s : State} {op : AAlu} {src : ASrc} {l r : Byte} {dst : Option Word} {u : Apu}

theorem audioAdc_run (h : s.audio (aluOperands op) = ((l, r, dst), u)) :
    s.audio (audioAdc op) = s.audioOn u (do aluStore dst (← aAdc8 l r); return false) := by
  rw [audioAdc, audio_bind h]

/-- Subtraction is addition of the complement (R661). -/
theorem audioSbc_run (h : s.audio (aluOperands op) = ((l, r, dst), u)) :
    s.audio (audioSbc op) = s.audioOn u (do aluStore dst (← aAdc8 l (~~~r)); return false) := by
  rw [audioSbc, audio_bind h]
  rfl

theorem audioCmp_run (h : s.audio (aluOperands op) = ((l, r, dst), u)) :
    s.audio (audioCmp op) = s.audioOn u (do aCmp8 l r; return false) := by
  rw [audioCmp, audio_bind h]

theorem audioCmpX_run (h : s.audio (asrc src) = (r, u)) :
    s.audio (audioCmpX src) = s.audioOn u (do aCmp8 u.x r; return false) := by
  rw [audioCmpX, audio_bind h, audioOn_get_bind]

theorem audioCmpY_run (h : s.audio (asrc src) = (r, u)) :
    s.audio (audioCmpY src) = s.audioOn u (do aCmp8 u.y r; return false) := by
  rw [audioCmpY, audio_bind h, audioOn_get_bind]

theorem aLogic_run (f : Byte → Byte → Byte) (h : s.audio (aluOperands op) = ((l, r, dst), u)) :
    s.audio (aLogic f op) = s.audioOn u (do aluStore dst (f l r); setnz (f l r); return false) := by
  rw [aLogic, audio_bind h]

end AluBodies

section AluInstr

variable {s : State} {i : Instr} {op : AAlu} {l r : Byte} {dst : Option Word} {u : Apu}

theorem aCmp8_run (s : State) (u : Apu) (l r : Byte) :
    s.audioOn u (aCmp8 l r) = ((), { u with psw := pswNz (l - r) (putBit aC (decide (r.toNat ≤ l.toNat)) u.psw) }) := rfl

/-- An instruction that adds two operands: the flags, then the result to where it goes (R660, R661). -/
theorem add_ended {body : A Bool} (hb : audioBody i = some body)
    (hbody : s.audio body = s.audioOn u (do aluStore dst (← aAdc8 l r); return false)) : ∃ q,
      exec i s = .next (s.audioEnded i false
        (s.audioOn { u with psw := q } (aluStore dst (byteSum l r (u.psw.getLsbD 0)))).2) ∧
      ByteSumFlags l r (u.psw.getLsbD 0) u.psw q := by
  obtain ⟨q, hrun, hq⟩ := aAdc8_run s u l r
  exact ⟨q, exec_audioEnded hb (hbody.trans (audioOn_bind hrun)), hq⟩

/-- A comparison sets flags alone (R662). -/
theorem cmp_ended {body : A Bool} (hb : audioBody i = some body)
    (hbody : s.audio body = s.audioOn u (do aCmp8 l r; return false)) : ∃ q,
      exec i s = .next (s.audioEnded i false { u with psw := q }) ∧
        NzAfter u.psw q (zext (l - r)) .w8 [0] ∧ q.getLsbD 0 = decide (r.toNat ≤ l.toNat) :=
  ⟨_, exec_audioEnded hb (hbody.trans (audioOn_bind (aCmp8_run s u l r))), pswNz_carry _ _ _⟩

/-- A logical operation stores its result, then sets n and z from it (R663 to R665). -/
theorem logic_ended {f : Byte → Byte → Byte} (hb : audioBody i = some (aLogic f op))
    (h : s.audio (aluOperands op) = ((l, r, dst), u)) : ∃ q,
      exec i s = .next (s.audioEnded i false { (s.audioOn u (aluStore dst (f l r))).2 with psw := q }) ∧
        NzAfter (s.audioOn u (aluStore dst (f l r))).2.psw q (zext (f l r)) .w8 [] :=
  ⟨_, exec_audioEnded hb (aLogic_run f h), pswNz_nzAfter _ _⟩

end AluInstr

/-- Settles O53: ADC and SBC are one addition, the comparisons one subtraction, and the logical operations differ in the function. -/
theorem audioArithmetic : Obligations.AudioArithmetic := by
  intro s op src
  constructor
  · intro l r dst u h c
    refine ⟨fun e he => ?_, cmp_ended rfl (audioCmp_run h), fun e he => ?_⟩
    · obtain ⟨body, hb, hbody⟩ : ∃ body, audioBody e.1 = some body ∧
          s.audio body = s.audioOn u (do aluStore dst (← aAdc8 l e.2); return false) := by
        simp only [List.mem_cons, List.not_mem_nil, or_false] at he
        rcases he with rfl | rfl
        · exact ⟨_, rfl, audioAdc_run h⟩
        · exact ⟨_, rfl, audioSbc_run h⟩
      obtain ⟨q, hexec, hq⟩ := add_ended hb hbody
      exact ⟨q, hexec, hq.nz, hq.carry, hq.half, hq.overflow⟩
    · simp only [List.mem_cons, List.not_mem_nil, or_false] at he
      rcases he with rfl | rfl | rfl
      · exact logic_ended (f := (· &&& ·)) rfl h
      · exact logic_ended (f := (· ||| ·)) rfl h
      · exact logic_ended (f := (· ^^^ ·)) rfl h
  · intro r u h e he
    simp only [List.mem_cons, List.not_mem_nil, or_false] at he
    rcases he with rfl | rfl
    · exact cmp_ended rfl (audioCmpX_run h)
    · exact cmp_ended rfl (audioCmpY_run h)

end Sys2Proof.Proofs

/-! # PROOFS. O55: the audio 16-bit operations (R651, R673 to R678) -/

namespace Sys2Proof.Proofs

open Sys2Proof Sys2Proof.Machine Sys2Proof.Laws

/-! ## Words by their bytes -/

theorem word_toNat (w : Word) : w.toNat = (hi w).toNat * 256 + (lo w).toNat := by
  conv_lhs => rw [← mkWord_hi_lo w]
  exact toNat_append (hi w) (lo w)

theorem word_toInt (w : Word) : w.toInt = (hi w).toInt * 256 + (lo w).toNat := by
  have hw := word_toNat w
  have hlo := (lo w).isLt
  simp only [BitVec.toInt_eq_toNat_cond]
  split_ifs <;> omega

theorem mkWord_toNat (h l : Byte) : (mkWord h l).toNat = h.toNat * 256 + l.toNat := toNat_append h l

theorem lo_not (w : Word) : lo (~~~w) = ~~~lo w := by
  ext j hj
  simp [lo, show j < 16 by omega]

theorem hi_not (w : Word) : hi (~~~w) = ~~~hi w := by
  ext j hj
  simp [Machine.hi, show 8 + j < 16 by omega]

/-! ## Adding words -/

/-- The 16-bit sum with carry (R676). -/
def wordSum (v w : Word) (c : Bool) : Word := v + w + (if c then 1 else 0)

/-- The status word `q` after adding `v`, `w` and the carry `c` where it was `p`: h is the carry out of bit 11 (R676, R677). -/
structure WordSumFlags (v w : Word) (c : Bool) (p q : Byte) : Prop where
  nz       : NzAfter p q (wordSum v w c) .w16 [0, 3, 6]
  carry    : q.getLsbD 0 = decide (65536 ≤ v.toNat + w.toNat + c.toNat)
  half     : q.getLsbD 3 = decide (4096 ≤ v.toNat % 4096 + w.toNat % 4096 + c.toNat)
  overflow : q.getLsbD 6 = Width.w16.outOfRange (v.toInt + w.toInt + (c.toNat : Int))

section WordSum

variable (v w : Word) (c : Bool)

theorem wordSum_toNat : (wordSum v w c).toNat = (v.toNat + w.toNat + c.toNat) % 65536 := by
  cases c <;> simp [wordSum]

variable {v w c} {c₁ : Bool} (h : c₁ = decide (256 ≤ (lo v).toNat + (lo w).toNat + c.toNat))
include h

/-- The low bytes' carry is what their sum has beyond a byte. -/
theorem lowCarry_toNat : c₁.toNat = ((lo v).toNat + (lo w).toNat + c.toNat) / 256 := by
  have hc := c.toNat_le
  have hv := (lo v).isLt
  have hw := (lo w).isLt
  by_cases hle : 256 ≤ (lo v).toNat + (lo w).toNat + c.toNat
  · rw [h, decide_eq_true hle, Bool.toNat_true]
    omega
  · rw [h, decide_eq_false hle, Bool.toNat_false]
    omega

/-- A word is added byte by byte, the low bytes' carry going into the high bytes' sum. -/
theorem wordSum_bytes : mkWord (byteSum (hi v) (hi w) c₁) (byteSum (lo v) (lo w) c) = wordSum v w c := by
  have hc₁ := lowCarry_toNat h
  have hv := word_toNat v
  have hw := word_toNat w
  apply BitVec.eq_of_toNat_eq
  rw [mkWord_toNat, byteSum_toNat, byteSum_toNat, wordSum_toNat]
  omega

/-- The flags of the two byte sums, with n and z of the word, are those of the word's sum (R676). -/
theorem wordSum_flags {p p₁ q₁ q₂ : Byte} (hp : OneFlag 0 c p p₁) (h₁ : ByteSumFlags (lo v) (lo w) c p₁ q₁)
    (h₂ : ByteSumFlags (hi v) (hi w) c₁ q₁ q₂) : WordSumFlags v w c p (pswNz16 (wordSum v w c) q₂) := by
  have hc₁ := lowCarry_toNat h
  have hc := c.toNat_le
  have hv := word_toNat v
  have hw := word_toNat w
  have hlv := (lo v).isLt
  have hlw := (lo w).isLt
  have hother : ∀ {j}, j ≠ 7 → j ≠ 1 → (pswNz16 (wordSum v w c) q₂).getLsbD j = q₂.getLsbD j := pswNz16_other _ _
  constructor
  case nz =>
    refine pswNz16_after (fun j h7 h1 hj => ?_) _
    obtain ⟨-, -, hkept₁⟩ := h₁.nz
    obtain ⟨-, -, hkept₂⟩ := h₂.nz
    rw [hkept₂ j h7 h1 hj, hkept₁ j h7 h1 hj, hp.2 j (fun h0 => hj (h0 ▸ List.mem_cons_self))]
  case carry =>
    rw [hother (by decide) (by decide), h₂.carry, decide_eq_decide]
    omega
  case half =>
    rw [hother (by decide) (by decide), h₂.half, decide_eq_decide]
    omega
  case overflow =>
    have hiv := word_toInt v
    have hiw := word_toInt w
    have hbound : (2 : Int) ^ (Width.w16.bits - 1) = 32768 := rfl
    rw [hother (by decide) (by decide), h₂.overflow, Width.outOfRange, hbound, Bool.eq_iff_iff]
    simp only [Bool.or_eq_true, decide_eq_true_eq]
    omega

end WordSum

/-- Adding `w` and the carry `c` to ya, after `c` is put in the flag: low bytes, high bytes, then n and z (R676, R677). -/
theorem addWord_run (s : State) (u : Apu) (w : Word) (c : Bool) : ∃ q,
    s.audioOn { u with psw := putBit aC c u.psw } (do
      let a ← aAdc8 (← get).a (lo w)
      let y ← aAdc8 (← get).y (hi w)
      modify fun u => { u with a := a, y := y }
      setnz16 (mkWord y a)
      return false) =
        (false, { u with a := lo (wordSum u.ya w c), y := hi (wordSum u.ya w c), psw := q }) ∧
      WordSumFlags u.ya w c u.psw q := by
  let p := putBit aC c u.psw
  have hp : OneFlag 0 c u.psw p := oneFlag_putBit (by decide) c u.psw
  obtain ⟨q₁, hlow, h₁⟩ := aAdc8_run s { u with psw := p } u.a (lo w)
  obtain ⟨q₂, hhigh, h₂⟩ := aAdc8_run s { u with psw := q₁ } u.y (hi w)
  dsimp only at hlow h₁ hhigh h₂
  rw [hp.1] at hlow h₁
  have hlo : lo u.ya = u.a := lo_mkWord _ _
  have hhi : hi u.ya = u.y := hi_mkWord _ _
  rw [← hlo] at h₁
  rw [← hhi] at h₂
  refine ⟨_, ?_, wordSum_flags h₁.carry hp h₁ h₂⟩
  rw [← wordSum_bytes h₁.carry, lo_mkWord, hi_mkWord, hlo, hhi, audioOn_get_bind, audioOn_bind hlow, audioOn_get_bind,
    audioOn_bind hhigh]
  rfl

/-! ## The instructions -/

section WordInstr

variable {s : State} {o : Byte} {w : Word} {u : Apu} (h : s.audio (wordRead o) = (w, u))
include h

theorem audioMovwLd_run :
    s.audio (audioMovwLd o) = (false, { u with a := lo w, y := hi w, psw := pswNz16 w u.psw }) := by
  rw [audioMovwLd, audio_bind h, audioOn_modify_bind, audioOn_bind (setnz16_run s _ w), audioOn_pure]

theorem audioIncw_run : s.audio (audioIncw o) = (false, { (s.audioOn u (wordWrite o (w + 1))).2 with
    psw := pswNz16 (w + 1) (s.audioOn u (wordWrite o (w + 1))).2.psw }) := by
  rw [audioIncw, audio_bind h]
  rfl

theorem audioDecw_run : s.audio (audioDecw o) = (false, { (s.audioOn u (wordWrite o (w - 1))).2 with
    psw := pswNz16 (w - 1) (s.audioOn u (wordWrite o (w - 1))).2.psw }) := by
  rw [audioDecw, audio_bind h]
  rfl

theorem audioAddw_run : ∃ q, s.audio (audioAddw o) =
      (false, { u with a := lo (wordSum u.ya w false), y := hi (wordSum u.ya w false), psw := q }) ∧
    WordSumFlags u.ya w false u.psw q := by
  obtain ⟨q, hrun, hq⟩ := addWord_run s u w false
  refine ⟨q, ?_, hq⟩
  rw [audioAddw, audio_bind h, audioOn_setAflag_bind]
  exact hrun

/-- Subtraction is addition of the complement and a carry of 1 (R677). -/
theorem audioSubw_run : ∃ q, s.audio (audioSubw o) =
      (false, { u with a := lo (wordSum u.ya (~~~w) true), y := hi (wordSum u.ya (~~~w) true), psw := q }) ∧
    WordSumFlags u.ya (~~~w) true u.psw q := by
  obtain ⟨q, hrun, hq⟩ := addWord_run s u (~~~w) true
  rw [lo_not, hi_not] at hrun
  refine ⟨q, ?_, hq⟩
  rw [audioSubw, audio_bind h, audioOn_setAflag_bind]
  exact hrun

theorem audioCmpw_run : s.audio (audioCmpw o) =
    (false, { u with psw := pswNz16 (u.ya - w) (putBit aC (decide (w.toNat ≤ u.ya.toNat)) u.psw) }) := by
  rw [audioCmpw, audio_bind h]
  rfl

end WordInstr

/-- Subtraction as a sum with the complement (R677). -/
theorem wordSum_not (v w : Word) : wordSum v (~~~w) true = v - w := by
  rw [wordSum, if_pos rfl, BitVec.add_assoc, BitVec.sub_eq_add_neg, BitVec.neg_eq_not_add]
  rfl

/-- The flags of a sum with the complement and a carry of 1 say of the difference that it needs no borrow (R677). -/
theorem WordSumFlags.sub {v w : Word} {p q : Byte} (h : WordSumFlags v (~~~w) true p q) :
    NzAfter p q (v - w) .w16 [0, 3, 6] ∧ q.getLsbD 0 = decide (w.toNat ≤ v.toNat) ∧
      q.getLsbD 3 = decide (w.toNat % 4096 ≤ v.toNat % 4096) ∧ q.getLsbD 6 = Width.w16.outOfRange (v.toInt - w.toInt) := by
  have hw := w.isLt
  refine ⟨wordSum_not v w ▸ h.nz, h.carry.trans ?_, h.half.trans ?_, h.overflow.trans ?_⟩
  · rw [BitVec.toNat_not, Bool.toNat_true, decide_eq_decide]
    omega
  · rw [BitVec.toNat_not, Bool.toNat_true, decide_eq_decide]
    omega
  · congr 1
    simp only [BitVec.toInt_eq_toNat_cond, BitVec.toNat_not, Bool.toNat_true]
    split_ifs <;> omega

/-- Settles O55: the word read once, then one of a few operations on it; ADDW and SUBW are one addition of two words. -/
theorem audioWords : Obligations.AudioWords := by
  intro s o w u h ya
  refine ⟨fun l hb hl hh => ?_, ?_, exec_audioEnded rfl rfl, fun e he => ?_, ?_, ?_, ?_⟩
  · rw [wordRead, audio_eq, dpPtr_of_byte? hl hh] at h
    cases h
    exact ⟨rfl, rfl⟩
  · exact ⟨_, exec_audioEnded rfl (audioMovwLd_run h), pswNz16_nzAfter _ _⟩
  · simp only [List.mem_cons, List.not_mem_nil, or_false] at he
    rcases he with rfl | rfl
    · exact ⟨_, exec_audioEnded rfl (audioIncw_run h), pswNz16_nzAfter _ _⟩
    · exact ⟨_, exec_audioEnded rfl (audioDecw_run h), pswNz16_nzAfter _ _⟩
  · obtain ⟨q, hrun, hq⟩ := audioAddw_run h
    have hsum : wordSum ya w false = ya + w := BitVec.add_zero (ya + w)
    exact ⟨q, _, exec_audioEnded rfl hrun, hsum, hq.nz, hq.carry, hq.half,
      hq.overflow.trans (congrArg Width.w16.outOfRange (Int.add_zero _))⟩
  · obtain ⟨q, hrun, hq⟩ := audioSubw_run h
    exact ⟨q, _, exec_audioEnded rfl hrun, wordSum_not ya w, (wordSum_not ya w).symm ▸ hq.sub⟩
  · exact ⟨_, exec_audioEnded rfl (audioCmpw_run h), pswNz16_carry _ _ _⟩

end Sys2Proof.Proofs

/-! # PROOFS. O56: MUL, DIV, DAA and DAS of the audio CPU (R679 to R682) -/

namespace Sys2Proof.Proofs

open Sys2Proof Sys2Proof.Machine Sys2Proof.Laws

/-- The low four bits of a byte (R680 to R682). -/
theorem and_0F_toNat (b : Byte) : (b &&& 0x0F).toNat = b.toNat % 16 := Nat.and_two_pow_sub_one_eq_mod b.toNat 4

/-! ## Multiply -/

theorem audioMul_run (s : State) : ∃ a y, s.audio audioMul = (false, { s.apu with a := a, y := y, psw := pswNz y s.apu.psw }) ∧
    y.toNat * 256 + a.toNat = s.apu.y.toNat * s.apu.a.toNat := by
  refine ⟨_, _, rfl, ?_⟩
  have hbound : s.apu.y.toNat * s.apu.a.toNat < 65536 :=
    Nat.mul_lt_mul'' s.apu.y.isLt s.apu.a.isLt
  rw [← word_toNat, BitVec.toNat_ofNat]
  exact Nat.mod_eq_of_lt hbound

/-! ## Divide -/

section Divide

variable {ya : Word} {x y : Byte}

/-- Where y is below 2x the division is that of ya by x, whose quotient is cut to a byte (R680). -/
theorem divYaX_below (h : y.toNat < 2 * x.toNat) :
    (divYaX ya y x).1.toNat = ya.toNat / x.toNat % 256 ∧ (divYaX ya y x).2.toNat = ya.toNat % x.toNat := by
  have hx : ya.toNat % x.toNat < x.toNat := Nat.mod_lt _ (by omega)
  rw [divYaX, if_pos h]
  refine ⟨BitVec.toNat_ofNat _ _, (BitVec.toNat_ofNat _ _).trans (Nat.mod_eq_of_lt ?_)⟩
  have := x.isLt
  omega

/-- Where y is below x the quotient fits a byte, and the division is exact (R680). -/
theorem divYaX_exact (hya : ya.toNat < 256 * x.toNat) (h : y.toNat < 2 * x.toNat) :
    (divYaX ya y x).1.toNat * x.toNat + (divYaX ya y x).2.toNat = ya.toNat ∧ (divYaX ya y x).2.toNat < x.toNat := by
  obtain ⟨hq, hr⟩ := divYaX_below (ya := ya) h
  have hfits : ya.toNat / x.toNat < 256 := Nat.div_lt_of_lt_mul (by omega)
  rw [hq, hr, Nat.mod_eq_of_lt hfits, Nat.mul_comm]
  exact ⟨Nat.div_add_mod _ _, Nat.mod_lt _ (by omega)⟩

/-- Where y is at least 2x: R680's other branch, with no number below zero but the quotient's, which is taken modulo 256. -/
theorem divYaX_above (hya : 512 * x.toNat ≤ ya.toNat) (h : 2 * x.toNat ≤ y.toNat) :
    (divYaX ya y x).1.toNat = (255 + 256 - (ya.toNat - 512 * x.toNat) / (256 - x.toNat)) % 256 ∧
      (divYaX ya y x).2.toNat = (x.toNat + (ya.toNat - 512 * x.toNat) % (256 - x.toNat)) % 256 := by
  have hlt := ya.isLt
  have hx := x.isLt
  have hq : (ya.toNat - 512 * x.toNat) / (256 - x.toNat) ≤ 511 := Nat.div_le_of_le_mul (by omega)
  have ht : (ya.toNat : Int) - 512 * (x.toNat : Int) = ((ya.toNat - 512 * x.toNat : Nat) : Int) := by omega
  have hn : (256 : Int) - (x.toNat : Int) = ((256 - x.toNat : Nat) : Int) := by omega
  rw [divYaX, if_neg (Nat.not_lt.2 h)]
  simp only [ht, hn, Int.fdiv_eq_ediv_of_nonneg _ (Int.natCast_nonneg _), Int.fmod_eq_emod_of_nonneg _ (Int.natCast_nonneg _),
    ← Int.natCast_ediv, ← Int.natCast_emod, BitVec.toNat_ofInt]
  generalize (ya.toNat - 512 * x.toNat) / (256 - x.toNat) = q, (ya.toNat - 512 * x.toNat) % (256 - x.toNat) = r at hq
  omega

end Divide

theorem audioDiv_run (s : State) : s.audio audioDiv = (false, { s.apu with
    a := (divYaX s.apu.ya s.apu.y s.apu.x).1, y := (divYaX s.apu.ya s.apu.y s.apu.x).2,
    psw := pswNz (divYaX s.apu.ya s.apu.y s.apu.x).1
      (putBit aV (decide (s.apu.x.toNat ≤ s.apu.y.toNat))
        (putBit aH (decide ((s.apu.x &&& 0x0F).toNat ≤ (s.apu.y &&& 0x0F).toNat)) s.apu.psw)) }) := rfl

/-- N, z, h and v set, and no other flag (R680). -/
theorem pswNz_half_overflow (r p : Byte) (h v : Bool) : NzAfter p (pswNz r (putBit aV v (putBit aH h p))) (zext r) .w8 [3, 6] ∧
    (pswNz r (putBit aV v (putBit aH h p))).getLsbD 3 = h ∧ (pswNz r (putBit aV v (putBit aH h p))).getLsbD 6 = v := by
  have hbit : ∀ j, (putBit aV v (putBit aH h p)).getLsbD j = if j = 6 then v else if j = 3 then h else p.getLsbD j := by
    intro j
    rw [putBit_getLsbD (by decide), putBit_getLsbD (by decide)]
  refine ⟨pswNz_after (fun j _ _ hj => ?_) r, (pswNz_other _ _ (by decide) (by decide)).trans (hbit 3),
    (pswNz_other _ _ (by decide) (by decide)).trans (hbit 6)⟩
  simp only [List.mem_cons, List.not_mem_nil, or_false, not_or] at hj
  obtain ⟨h3, h6⟩ := hj
  rw [hbit, if_neg h6, if_neg h3]

/-! ## Decimal adjustment -/

/-- DAA and DAS share one shape: where `big` holds the accumulator takes the adjustment `f` and c becomes `v`; then, by `test` of h
or a low digit above 9, it takes the adjustment `g` (R681, R682). -/
def decimalAdjust (big v : Bool) (test : Bool → Bool) (f g : Byte → Byte) : A Bool := do
  if big then
    modify fun u => { u with a := f u.a }
    setAflag aC v
  let u ← get
  if test (u.psw.getLsbD aH) || decide ((u.a &&& 0x0F).toNat > 9) then
    modify fun u => { u with a := g u.a }
  setnz (← get).a
  return false

theorem audioDaa_eq (s : State) : s.audio audioDaa = s.audioOn s.apu
    (decimalAdjust (s.apu.psw.getLsbD aC || decide (s.apu.a.toNat > 0x99)) true id (· + 0x60) (· + 0x06)) := rfl

theorem audioDas_eq (s : State) : s.audio audioDas = s.audioOn s.apu
    (decimalAdjust (!s.apu.psw.getLsbD aC || decide (s.apu.a.toNat > 0x99)) false not (· - 0x60) (· - 0x06)) := rfl

/-- The accumulator after the second adjustment, `p` the status word (R681, R682). -/
def adjustLow (test : Bool → Bool) (g : Byte → Byte) (p a : Byte) : Byte :=
  if test (p.getLsbD 3) = true ∨ 9 < a.toNat % 16 then g a else a

section Adjust

variable (s : State) (u : Apu) (v : Bool) (test : Bool → Bool) (f g : Byte → Byte)

/-- The second adjustment, then n and z. -/
theorem decimalAdjust_low : s.audioOn u (decimalAdjust false v test f g) = (false, { u with
    a := adjustLow test g u.psw u.a, psw := pswNz (adjustLow test g u.psw u.a) u.psw }) := by
  have hcond : (test (u.psw.getLsbD aH) || decide ((u.a &&& 0x0F).toNat > 9)) =
      decide (test (u.psw.getLsbD 3) = true ∨ 9 < u.a.toNat % 16) := by
    rw [and_0F_toNat, Bool.decide_or, Bool.decide_eq_true]
  rw [decimalAdjust, if_neg Bool.false_ne_true, audioOn_get_bind, hcond, adjustLow]
  simp only [decide_eq_true_eq]
  split
  · rfl
  · rfl

/-- The first adjustment moves no flag that the second tests. -/
theorem decimalAdjust_high : s.audioOn u (decimalAdjust true v test f g) =
    s.audioOn { u with a := f u.a, psw := putBit aC v u.psw } (decimalAdjust false v test f g) := rfl

/-- What DAA and DAS leave (R681, R682). -/
theorem decimalAdjust_run (big : Bool) : ∃ q a1 a2,
    s.audioOn u (decimalAdjust big v test f g) = (false, { u with a := a2, psw := q }) ∧
      a1 = (if big then f u.a else u.a) ∧ a2 = adjustLow test g u.psw a1 ∧
      q.getLsbD 0 = (if big then v else u.psw.getLsbD 0) ∧ NzAfter u.psw q (zext a2) .w8 [0] := by
  cases big with
  | false =>
    exact ⟨_, u.a, _, decimalAdjust_low s u v test f g, rfl, rfl, pswNz_other _ _ (by decide) (by decide),
      pswNz_after (fun _ _ _ _ => rfl) _⟩
  | true =>
    obtain ⟨hnz, hcarry⟩ := pswNz_carry (adjustLow test g u.psw (f u.a)) u.psw v
    have hhalf : (putBit aC v u.psw).getLsbD 3 = u.psw.getLsbD 3 := putBit_getLsbD (by decide) _ _ _
    refine ⟨_, f u.a, _, ?_, rfl, rfl, hcarry, hnz⟩
    rw [decimalAdjust_high, decimalAdjust_low, adjustLow, hhalf, ← adjustLow]

end Adjust

/-- Settles O56: each instruction answers its result, and what the statement says of its numbers is a lemma about that result. -/
theorem audioMultiplyDivide : Obligations.AudioMultiplyDivide := by
  intro s u ya
  have hya : u.ya.toNat = ya := mkWord_toNat u.y u.a
  have ha := u.a.isLt
  have hbound : u.y.toNat * 256 ≤ ya ∧ ya < u.y.toNat * 256 + 256 := ⟨Nat.le_add_right _ _, Nat.add_lt_add_left ha _⟩
  refine ⟨?_, ?_, ?_, ?_⟩
  · obtain ⟨a, y, hrun, hprod⟩ := audioMul_run s
    exact ⟨_, a, y, exec_audioEnded rfl hrun, hprod, pswNz_nzAfter _ _⟩
  · obtain ⟨hnz, hhalf, hover⟩ := pswNz_half_overflow (divYaX u.ya u.y u.x).1 u.psw
      (decide ((u.x &&& 0x0F).toNat ≤ (u.y &&& 0x0F).toNat)) (decide (u.x.toNat ≤ u.y.toNat))
    refine ⟨_, (divYaX u.ya u.y u.x).1, (divYaX u.ya u.y u.x).2, exec_audioEnded rfl (audioDiv_run s), hnz, ?_, hover,
      fun h => ?_, fun h => ?_, fun h => ?_⟩
    · rw [hhalf, and_0F_toNat, and_0F_toNat]
    · rw [← hya]
      exact divYaX_exact (by omega) (by omega)
    · rw [← hya]
      exact divYaX_below h
    · rw [← hya]
      exact divYaX_above (by omega) h
  · have hbig : (u.psw.getLsbD 0 || decide (0x99 < u.a.toNat)) = decide (u.psw.getLsbD 0 = true ∨ 0x99 < u.a.toNat) := by
      rw [Bool.decide_or, Bool.decide_eq_true]
    obtain ⟨q, a1, a2, hrun, h1, h2, hcarry, hnz⟩ := decimalAdjust_run s u true id (· + 0x60) (· + 0x06)
      (u.psw.getLsbD 0 || decide (0x99 < u.a.toNat))
    refine ⟨q, a1, a2, exec_audioEnded rfl ((audioDaa_eq s).trans hrun), ?_, h2, ?_, hnz⟩
    · simpa only [hbig, decide_eq_true_eq] using h1
    · rw [hcarry, ← hbig]
      cases u.psw.getLsbD 0 <;> cases decide (0x99 < u.a.toNat) <;> rfl
  · have hbig : (!u.psw.getLsbD 0 || decide (0x99 < u.a.toNat)) = decide (u.psw.getLsbD 0 = false ∨ 0x99 < u.a.toNat) := by
      rw [Bool.decide_or, Bool.decide_eq_false]
    have hkept : decide (u.psw.getLsbD 0 = true ∧ ¬0x99 < u.a.toNat) = (u.psw.getLsbD 0 && !decide (0x99 < u.a.toNat)) := by
      rw [Bool.decide_and, Bool.decide_eq_true, decide_not]
    obtain ⟨q, a1, a2, hrun, h1, h2, hcarry, hnz⟩ := decimalAdjust_run s u false not (· - 0x60) (· - 0x06)
      (!u.psw.getLsbD 0 || decide (0x99 < u.a.toNat))
    refine ⟨q, a1, a2, exec_audioEnded rfl ((audioDas_eq s).trans hrun), ?_, ?_, ?_, hnz⟩
    · simpa only [hbig, decide_eq_true_eq] using h1
    · simpa only [adjustLow, Bool.not_eq_true'] using h2
    · rw [hcarry, hkept]
      cases u.psw.getLsbD 0 <;> cases decide (0x99 < u.a.toNat) <;> rfl

end Sys2Proof.Proofs

/-! # PROOFS. O52: the audio moves (R654 to R658) -/

namespace Sys2Proof.Proofs

open Sys2Proof Sys2Proof.Machine Sys2Proof.Laws

section Moves

variable {s : State}

/-- A store of a register: computing the address leaves the registers alone (R655). -/
theorem audioStore_ended {i : Instr} {m : AMode} {reg : Apu → Byte} {v : Byte}
    (hb : audioBody i = some (do let t ← aaddr m; awrite t (reg (← get)); return false))
    (hv : reg (s.audio (aaddr m)).2 = v) :
    exec i s = .next (s.audioEnded i false (s.audioOn (s.audio (aaddr m)).2 (awrite (s.audio (aaddr m)).1 v)).2) := by
  subst hv
  exact exec_audioEnded hb rfl

variable {t : Apu} {v : Byte}

/-- The destination's page is the one chosen before the read (R657). -/
theorem audioMovDD_run {src : Byte} (h : s.audio (aread (s.apu.page + zext src)) = (v, t)) (dst : Byte) :
    s.audio (audioMovDD src dst) = (false, (s.audioOn t (awrite (s.apu.page + zext dst) v)).2) := by
  have hpage := page_of_regs ((aread_keepsRegs _).of_audioOn h)
  rw [audioMovDD, audio_eq, audioOn_dpAddr_bind, audioOn_bind h, audioOn_dpAddr_bind, hpage]
  rfl

/-- The write moves no register, so x counts from where it was (R658). -/
theorem audioMovIncA_run (h : s.audio (awrite (s.apu.page + zext s.apu.x) s.apu.a) = ((), t)) :
    s.audio audioMovIncA = (false, { t with x := s.apu.x + 1 }) := by
  have hx : t.x = s.apu.x := congrArg AudioRegs.x ((awrite_keepsRegs _ _).of_audioOn h)
  rw [audioMovIncA, audio_eq, audioOn_get_bind, audioOn_bind h, ← hx]
  rfl

/-- The read moves no register, so x counts from where it was (R658). -/
theorem audioMovAInc_run (h : s.audio (aread (s.apu.page + zext s.apu.x)) = (v, t)) :
    s.audio audioMovAInc = (false, { t with a := v, x := s.apu.x + 1, psw := pswNz v t.psw }) := by
  have hx : t.x = s.apu.x := congrArg AudioRegs.x ((aread_keepsRegs _).of_audioOn h)
  rw [audioMovAInc, audio_eq, audioOn_get_bind, audioOn_bind h, ← hx]
  rfl

end Moves

/-- Settles O52: each move is a read, a write or both, and the registers it goes on with are those before the access. -/
theorem audioMoves : Obligations.AudioMoves := by
  intro s src m i d u
  refine ⟨?_, ?_, ?_, exec_audioEnded rfl rfl, ?_, exec_audioEnded rfl rfl, ?_, ?_⟩
  · rintro _ rfl
    exact ⟨⟨_, exec_audioEnded rfl rfl, pswNz_nzAfter _ _⟩, ⟨_, exec_audioEnded rfl rfl, pswNz_nzAfter _ _⟩,
      ⟨_, exec_audioEnded rfl rfl, pswNz_nzAfter _ _⟩⟩
  · rintro _ rfl
    have hregs : audioRegs (s.audio (aaddr m)).2 = audioRegs u := aaddr_keepsRegs m s.cfg u
    exact ⟨audioStore_ended (reg := Apu.a) rfl (congrArg AudioRegs.a hregs),
      audioStore_ended (reg := Apu.x) rfl (congrArg AudioRegs.x hregs),
      audioStore_ended (reg := Apu.y) rfl (congrArg AudioRegs.y hregs)⟩
  · intro e he
    simp only [List.mem_cons, List.not_mem_nil, or_false] at he
    rcases he with rfl | rfl | rfl | rfl | rfl
    all_goals exact ⟨_, exec_audioEnded rfl rfl, pswNz_nzAfter _ _⟩
  · rintro _ rfl
    exact exec_audioEnded rfl (audioMovDD_run rfl d)
  · rintro _ rfl
    exact exec_audioEnded rfl (audioMovIncA_run rfl)
  · rintro _ rfl
    exact ⟨_, exec_audioEnded rfl (audioMovAInc_run rfl), pswNz_nzAfter _ _⟩

end Sys2Proof.Proofs

/-! # PROOFS. O54: the audio read-modify-write operations (R652, R666 to R672) -/

namespace Sys2Proof.Proofs

open Sys2Proof Sys2Proof.Machine Sys2Proof.Laws

/-! ## The computations -/

/-- Where c is `c`, the computation `f` takes each byte `v` to `(g v).1`, sets n and z from it, makes c `(g v).2` and does no more. -/
def AudioComputes (f : Byte → A Byte) (c : Bool) (g : Byte → Byte × Bool) : Prop :=
  ∀ (s : State) (u : Apu) (v : Byte), u.psw.getLsbD 0 = c → ∃ q, s.audioOn u (f v) = ((g v).1, { u with psw := q }) ∧
    NzAfter u.psw q (zext (g v).1) .w8 [0] ∧ q.getLsbD 0 = (g v).2

/-- A computation that leaves c alone (R666, R667). -/
theorem audioComputes_keep (c : Bool) (r : Byte → Byte) :
    AudioComputes (fun v => do setnz (r v); return r v) c fun v => (r v, c) :=
  fun s u v hc => ⟨_, audioOn_bind (setnz_run s u (r v)), pswNz_after (fun _ _ _ _ => rfl) (r v), (pswNz_other _ _ (by decide) (by decide)).trans hc⟩

/-- A computation that sets c and may have read it (R668 to R671). -/
theorem audioComputes_carry {f : Byte → A Byte} {c : Bool} {g : Byte → Byte × Bool}
    (h : ∀ (s : State) (u : Apu) (v : Byte), u.psw.getLsbD 0 = c →
      s.audioOn u (f v) = ((g v).1, { u with psw := pswNz (g v).1 (putBit aC (g v).2 u.psw) })) : AudioComputes f c g :=
  fun s u v hc => ⟨_, h s u v hc, pswNz_carry _ _ _⟩

theorem bitAt_zero (c : Bool) : bitAt 0 c = if c then 1 else 0 := by cases c <;> rfl

theorem bitAt_seven (c : Bool) : bitAt 7 c = if c then 0x80 else 0 := by cases c <;> rfl

/-! ## The operand -/

section Rmw

variable {s : State} {i : ARmw → Instr} {f : Byte → A Byte} {c : Bool} {g : Byte → Byte × Bool}
  (hb : ∀ op, audioBody (i op) = some (do armw f op; return false))
include hb

/-- On a register, which `reg` reads and `put` writes. -/
theorem armw_register {op : ARmw} {reg : Apu → Byte} {put : Byte → Apu → Apu}
    (hop : armw f op = (do let v ← f (reg (← get)); modify (put v))) (hf : AudioComputes f (s.apu.psw.getLsbD 0) g) : ∃ q,
      exec (i op) s = .next (s.audioEnded (i op) false (put (g (reg s.apu)).1 { s.apu with psw := q })) ∧
      NzAfter s.apu.psw q (zext (g (reg s.apu)).1) .w8 [0] ∧ q.getLsbD 0 = (g (reg s.apu)).2 := by
  obtain ⟨q, hrun, hq⟩ := hf s s.apu (reg s.apu) rfl
  refine ⟨q, exec_audioEnded (hb op) ?_, hq⟩
  have hreg : s.audio (armw f op) = ((), put (g (reg s.apu)).1 { s.apu with psw := q }) := by
    rw [hop, audio_eq, audioOn_get_bind, audioOn_bind hrun]
    rfl
  exact audio_bind hreg

/-- On memory: one read, one write of the result at the same address (R652). -/
theorem armw_memory {m : AMode} {a : Word} {t r : Apu} {v : Byte} (ha : s.audio (aaddr m) = (a, t))
    (hv : s.audioOn t (aread a) = (v, r)) (hf : AudioComputes f (r.psw.getLsbD 0) g) : ∃ q,
      exec (i (.mem m)) s = .next (s.audioEnded (i (.mem m)) false (s.audioOn { r with psw := q } (awrite a (g v).1)).2) ∧
      NzAfter r.psw q (zext (g v).1) .w8 [0] ∧ q.getLsbD 0 = (g v).2 := by
  obtain ⟨q, hrun, hq⟩ := hf s r v rfl
  refine ⟨q, exec_audioEnded (hb (.mem m)) ?_, hq⟩
  have hmem : s.audio (armw f (.mem m)) = s.audioOn { r with psw := q } (awrite a (g v).1) := by
    rw [armw, audio_bind ha, audioOn_bind hv, audioOn_bind hrun]
  exact audio_bind hmem

end Rmw

/-- XCN exchanges the halves of the accumulator (R672). -/
theorem exchangeNibbles_toNat (a : Byte) : ((a >>> 4) ||| (a <<< 4)).toNat = a.toNat / 16 + a.toNat % 16 * 16 := by
  have ha := a.isLt
  have hlow : a.toNat / 16 < 2 ^ 4 := by omega
  have hhigh : (a <<< 4).toNat = (a.toNat % 16) <<< 4 := by
    rw [BitVec.toNat_shiftLeft, Nat.shiftLeft_eq, Nat.shiftLeft_eq]
    omega
  rw [BitVec.toNat_or, BitVec.toNat_ushiftRight, hhigh, Nat.shiftRight_eq_div_pow, Nat.or_comm,
    ← Nat.shiftLeft_add_eq_or_of_lt hlow, Nat.shiftLeft_eq, Nat.add_comm]

/-- Settles O54: the six operations differ in the computation, and XCN is one of the accumulator alone. -/
theorem audioModify : Obligations.AudioModify := by
  intro s m table u
  have htable : ∀ c, ∀ e ∈ table c, ∃ f, (∀ op, audioBody (e.1 op) = some (do armw f op; return false)) ∧
      AudioComputes f c e.2 := by
    intro c e he
    simp only [table, List.mem_cons, List.not_mem_nil, or_false] at he
    rcases he with rfl | rfl | rfl | rfl | rfl | rfl
    · exact ⟨_, fun _ => rfl, audioComputes_keep c (· + 1)⟩
    · exact ⟨_, fun _ => rfl, audioComputes_keep c (· - 1)⟩
    · exact ⟨_, fun _ => rfl, audioComputes_carry fun _ _ _ _ => rfl⟩
    · exact ⟨_, fun _ => rfl, audioComputes_carry fun _ _ _ _ => rfl⟩
    · exact ⟨_, fun _ => rfl, audioComputes_carry fun s u v hc => by rw [← hc, ← bitAt_zero]; rfl⟩
    · exact ⟨_, fun _ => rfl, audioComputes_carry fun s u v hc => by rw [← hc, ← bitAt_seven]; rfl⟩
  refine ⟨fun e he o ho => ?_, fun a t v r ha hv e he => ?_, ?_⟩
  · obtain ⟨f, hb, hf⟩ := htable _ e he
    simp only [List.mem_cons, List.not_mem_nil, or_false] at ho
    rcases ho with rfl | rfl | rfl
    · exact armw_register hb (reg := Apu.a) (put := fun v u => { u with a := v }) rfl hf
    · exact armw_register hb (reg := Apu.x) (put := fun v u => { u with x := v }) rfl hf
    · exact armw_register hb (reg := Apu.y) (put := fun v u => { u with y := v }) rfl hf
  · obtain ⟨f, hb, hf⟩ := htable _ e he
    exact armw_memory hb ha hv hf
  · exact ⟨_, _, exec_audioEnded rfl rfl, exchangeNibbles_toNat u.a, pswNz_nzAfter _ _⟩

end Sys2Proof.Proofs

/-! # PROOFS. O57: the audio branches (R720 to R733) -/

namespace Sys2Proof.Proofs

open Sys2Proof Sys2Proof.Machine Sys2Proof.Laws

/-- A write, then the rest of a sequence. -/
@[simp] theorem audioOn_awrite_bind {β : Type} (s : State) (u : Apu) (a : Word) (v : Byte) (f : Unit → A β) :
    s.audioOn u (awrite a v >>= f) = s.audioOn (s.audioOn u (awrite a v)).2 (f ()) := rfl

/-- The audio side after a branch: at `pc_next + sext_8(r)` where the condition holds (R720). -/
def branched (u : Apu) (c : Bool) (r : Byte) : Apu := { u with pc := if c then u.pc + r.signExtend 16 else u.pc }

theorem abranch_run (s : State) (u : Apu) (c : Bool) (r : Byte) : s.audioOn u (abranch c r) = (c, branched u c r) := by
  cases c <;> rfl

section Branches

variable {s : State} {d r v : Byte} {t : Apu}

section DirectPage

variable (h : s.audio (aread (s.apu.page + zext d)) = (v, t))
include h

theorem audioBbs_run (b : BitVec 3) :
    s.audio (audioBbs b d r) = (v.getLsbD b.toNat, branched t (v.getLsbD b.toNat) r) := by
  rw [audioBbs, audio_eq, audioOn_dpAddr_bind, audioOn_bind h, abranch_run]

theorem audioBbc_run (b : BitVec 3) :
    s.audio (audioBbc b d r) = (!v.getLsbD b.toNat, branched t (!v.getLsbD b.toNat) r) := by
  rw [audioBbc, audio_eq, audioOn_dpAddr_bind, audioOn_bind h, abranch_run]

theorem audioCbne_run : s.audio (audioCbne d r) = (decide (t.a ≠ v), branched t (decide (t.a ≠ v)) r) := by
  rw [audioCbne, audio_eq, aaddr, audioOn_dpAddr_bind, audioOn_bind h, audioOn_get_bind, abranch_run]

/-- DBNZ writes the byte counted down to the address it was read from (R733). -/
theorem audioDbnz_run : s.audio (audioDbnz d r) = (decide (v - 1 ≠ 0),
    branched (s.audioOn t (awrite (s.apu.page + zext d) (v - 1))).2 (decide (v - 1 ≠ 0)) r) := by
  rw [audioDbnz, audio_eq, audioOn_dpAddr_bind, audioOn_bind h, audioOn_awrite_bind, abranch_run]

end DirectPage

theorem audioCbneX_run (h : s.audio (aread (s.apu.page + zext (d + s.apu.x))) = (v, t)) :
    s.audio (audioCbneX d r) = (decide (t.a ≠ v), branched t (decide (t.a ≠ v)) r) := by
  have haddr : s.audio (aaddr (.dx d)) = (s.apu.page + zext (d + s.apu.x), s.apu) := rfl
  rw [audioCbneX, audio_bind haddr, audioOn_bind h, audioOn_get_bind, abranch_run]

theorem audioDbnzY_run : s.audio (audioDbnzY r) = (decide (s.apu.y - 1 ≠ 0),
    branched { s.apu with y := s.apu.y - 1 } (decide (s.apu.y - 1 ≠ 0)) r) := by
  rw [audioDbnzY, audio_eq, audioOn_modify_bind, audioOn_get_bind, abranch_run]

end Branches

/-- Settles O57: each branch ends in `abranch` on its condition, after the read and the write that some of them make. -/
theorem audioBranches : Obligations.AudioBranches := by
  intro s r d b u jump
  refine ⟨fun e he => ?_, fun v t h => ⟨exec_audioEnded rfl (audioBbs_run h b), exec_audioEnded rfl (audioBbc_run h b),
    exec_audioEnded rfl (audioCbne_run h), exec_audioEnded rfl (audioDbnz_run h)⟩,
    fun v t h => exec_audioEnded rfl (audioCbneX_run h), exec_audioEnded rfl audioDbnzY_run⟩
  simp only [List.mem_cons, List.not_mem_nil, or_false] at he
  rcases he with rfl | rfl | rfl | rfl | rfl | rfl | rfl | rfl | rfl
  all_goals exact exec_audioEnded rfl (abranch_run s u _ r)

end Sys2Proof.Proofs

/-! # PROOFS. O58: the audio jumps, calls, returns and stack instructions (R734 to R742) -/

namespace Sys2Proof.Proofs

open Sys2Proof Sys2Proof.Machine Sys2Proof.Laws

/-! ## Page 1 and the vectors -/

theorem isIoReg_of_ge {a : Word} (h : 0x100 ≤ a.toNat) : isIoReg a = false := by
  simp only [isIoReg, Bool.and_eq_false_iff, decide_eq_false_iff_not]
  omega

theorem byte?_of_not_isIoReg {a : Word} (h : isIoReg a = false) (u : Apu) : u.byte? a = some (u.ramByte a) := by
  rw [Apu.byte?, h]
  rfl

/-- No stack byte is an I/O register (R121, R981). -/
theorem isIoReg_stack (sp : Byte) : isIoReg (0x0100 + zext sp) = false := by
  refine isIoReg_of_ge ?_
  have hsp := sp.isLt
  have haddr : (0x0100 + zext sp : Word).toNat = 0x100 + sp.toNat := by
    rw [BitVec.toNat_add, zext, BitVec.toNat_setWidth]
    change (256 + sp.toNat % 2 ^ 16) % 2 ^ 16 = 0x100 + sp.toNat
    omega
  omega

/-- TCALL's vectors lie in the last page, two bytes each (R737). -/
theorem isIoReg_vector (n : BitVec 4) : isIoReg (0xFFDE - 2 * n.setWidth 16) = false ∧
    isIoReg (0xFFDE - 2 * n.setWidth 16 + 1) = false := by
  revert n
  decide

section Stack

variable (s : State) (u : Apu)

theorem apush_run (v : Byte) : s.audioOn u (apush v) = ((), u.pushed v) := by
  have hwrite : s.audioOn u (awrite (0x0100 + zext u.sp) v) = ((), u.putRam (0x0100 + zext u.sp) v) :=
    awrite_of_byte? (by rw [byte?_of_not_isIoReg (isIoReg_stack u.sp)]; exact Option.some_ne_none _) v
  rw [apush, audioOn_get_bind, audioOn_bind hwrite]
  rfl

theorem apull_run : s.audioOn u apull = (u.ramByte u.pullAt, { u with sp := u.sp + 1 }) := by
  rw [apull, audioOn_modify_bind, audioOn_get_bind]
  exact aread_of_byte? (byte?_of_not_isIoReg (isIoReg_stack (u.sp + 1)) _)

/-- The audio side with its pc pushed, high byte first: the stack a call leaves (R735). -/
def called : Apu := (u.pushed (hi u.pc)).pushed (lo u.pc)

theorem apushPC_run : s.audioOn u (apushPC u.pc) = ((), called u) := by
  rw [apushPC, audioOn_bind (apush_run s u _), apush_run]
  rfl

/-- A word pulled, low byte first (R739). -/
theorem apullPC_run : s.audioOn u apullPC =
    (mkWord (u.ramByte ({ u with sp := u.sp + 1 } : Apu).pullAt) (u.ramByte u.pullAt), { u with sp := u.sp + 2 }) := by
  rw [apullPC, audioOn_bind (apull_run s u), audioOn_bind (apull_run s _), audioOn_pure]
  simp only [BitVec.add_assoc]
  rfl

/-- A word read where no I/O register is, low byte first (R734, R737). -/
theorem aword_run {t : Word} (hl : isIoReg t = false) (hh : isIoReg (t + 1) = false) :
    s.audioOn u (aword t) = (mkWord (u.ramByte (t + 1)) (u.ramByte t), u) := by
  have hlow : s.audioOn u (aread t) = (u.ramByte t, u) := aread_of_byte? (byte?_of_not_isIoReg hl u)
  have hhigh : s.audioOn u (aread (t + 1)) = (u.ramByte (t + 1), u) := aread_of_byte? (byte?_of_not_isIoReg hh u)
  rw [aword, audioOn_bind hlow, audioOn_bind hhigh, audioOn_pure]

end Stack

/-! ## The instructions -/

section Control

variable (s : State)

theorem audioJmpInd_run {a t : Word} {v : Apu} (h : s.audio (aword (a + zext s.apu.x)) = (t, v)) :
    s.audio (audioJmpInd a) = (false, { v with pc := t }) := by
  rw [audioJmpInd, audio_eq, audioOn_get_bind, audioOn_bind h]
  rfl

theorem audioCall_run (a : Word) : s.audio (audioCall a) = (false, { called s.apu with pc := a }) := by
  rw [audioCall, audio_eq, audioOn_get_bind, audioOn_bind (apushPC_run s s.apu)]
  rfl

theorem audioPcall_run (k : Byte) : s.audio (audioPcall k) = (false, { called s.apu with pc := mkWord 0xFF k }) := by
  rw [audioPcall, audio_eq, audioOn_get_bind, audioOn_bind (apushPC_run s s.apu)]
  rfl

theorem audioTcall_run (n : BitVec 4) {t : Word} (ht : t = 0xFFDE - 2 * n.setWidth 16) : s.audio (audioTcall n) =
    (false, { called s.apu with pc := mkWord ((called s.apu).ramByte (t + 1)) ((called s.apu).ramByte t) }) := by
  subst ht
  obtain ⟨hl, hh⟩ := isIoReg_vector n
  rw [audioTcall, audio_eq, audioOn_get_bind, audioOn_bind (apushPC_run s s.apu), audioOn_bind (aword_run s _ hl hh)]
  rfl

/-- BRK pushes `psw` as it was, then sets b and clears i (R738). -/
theorem audioBrk_run : s.audio audioBrk = (false, { (called s.apu).pushed s.apu.psw with
    psw := putBit aI false (putBit aB true s.apu.psw)
    pc := mkWord (((called s.apu).pushed s.apu.psw).ramByte 0xFFDF) (((called s.apu).pushed s.apu.psw).ramByte 0xFFDE) }) := by
  rw [audioBrk, audio_eq, audioOn_get_bind, audioOn_bind (apushPC_run s s.apu), audioOn_get_bind,
    audioOn_bind (apush_run s (called s.apu) _), audioOn_setAflag_bind, audioOn_setAflag_bind,
    audioOn_bind (aword_run s _ (by decide) (by decide))]
  rfl

/-- The status word with b set and i cleared (R738). -/
theorem pswBrk_flags (p : Byte) :
    (putBit aI false (putBit aB true p)).getLsbD 4 = true ∧ (putBit aI false (putBit aB true p)).getLsbD 2 = false ∧
      ∀ i, i ≠ 4 → i ≠ 2 → (putBit aI false (putBit aB true p)).getLsbD i = p.getLsbD i := by
  obtain ⟨hb, hkept⟩ := oneFlag_putBit (j := aB) (by decide) true p
  obtain ⟨hi, hkept'⟩ := oneFlag_putBit (j := aI) (by decide) false (putBit aB true p)
  exact ⟨(hkept' 4 (by decide)).trans hb, hi, fun i h4 h2 => (hkept' i h2).trans (hkept i h4)⟩

theorem audioRet_run : s.audio audioRet = (false, { s.apu with
    sp := s.apu.sp + 2
    pc := mkWord (s.apu.ramByte ({ s.apu with sp := s.apu.sp + 1 } : Apu).pullAt) (s.apu.ramByte s.apu.pullAt) }) := by
  rw [audioRet, audio_eq, audioOn_bind (apullPC_run s s.apu)]
  rfl

/-- RETI pulls `psw`, then pc (R740). -/
theorem audioReti_run : s.audio audioReti = (false, { s.apu with
    sp := s.apu.sp + 3
    psw := s.apu.ramByte s.apu.pullAt
    pc := mkWord (s.apu.ramByte ({ s.apu with sp := s.apu.sp + 1 + 1 } : Apu).pullAt)
      (s.apu.ramByte ({ s.apu with sp := s.apu.sp + 1 } : Apu).pullAt) }) := by
  rw [audioReti, audio_eq, audioOn_bind (apull_run s s.apu), audioOn_modify_bind, audioOn_bind (apullPC_run s _),
    show s.apu.sp + 3 = s.apu.sp + 1 + 2 from (BitVec.add_assoc s.apu.sp 1 2).symm]
  rfl

end Control

/-- Settles O58: the stack is plain RAM in page 1, so pushes and pulls reach it directly, and no vector lies in an I/O register. -/
theorem audioControl : Obligations.AudioControl := by
  intro s a k n u called pulled pop
  refine ⟨exec_audioEnded rfl rfl, fun t v h => exec_audioEnded rfl (audioJmpInd_run s h),
    exec_audioEnded rfl (audioCall_run s a), exec_audioEnded rfl (audioPcall_run s k),
    fun t ht => exec_audioEnded rfl (audioTcall_run s n ht),
    ⟨_, exec_audioEnded rfl (audioBrk_run s), pswBrk_flags _⟩, exec_audioEnded rfl (audioRet_run s),
    exec_audioEnded rfl (audioReti_run s), fun e he => ?_, ?_, ?_, ?_, ?_⟩
  · simp only [List.mem_cons, List.not_mem_nil, or_false] at he
    rcases he with rfl | rfl | rfl | rfl
    all_goals
      refine exec_audioEnded rfl ?_
      rw [audioPush, audio_eq, audioOn_get_bind, audioOn_bind (apush_run s u _)]
      rfl
  all_goals
    refine exec_audioEnded rfl ?_
    rw [audioPop, audio_bind (apull_run s u)]
    rfl

end Sys2Proof.Proofs

/-! # PROOFS. O59: the audio bit and flag instructions, NOP and the halts (R743 to R762) -/

namespace Sys2Proof.Proofs

open Sys2Proof Sys2Proof.Machine Sys2Proof.Laws

/-! ## One bit of a byte -/

theorem putBit_true (i : Nat) (v : Byte) : putBit i true v = v ||| (1#8 <<< i) := by
  refine BitVec.eq_of_getLsbD_eq fun j hj => ?_
  simp only [putBit, bitAt, if_true, BitVec.getLsbD_or, BitVec.getLsbD_and, BitVec.getLsbD_not, hj, decide_true, Bool.true_and]
  cases (1#8 <<< i).getLsbD j <;> simp

theorem putBit_false (i : Nat) (v : Byte) : putBit i false v = v &&& ~~~(1#8 <<< i) := BitVec.or_zero

/-! ## The bit instructions -/

section Bits

variable {s : State} {v : Byte} {t : Apu}

theorem audioSet1_run {d : Byte} (h : s.audio (aread (s.apu.page + zext d)) = (v, t)) (b : BitVec 3) :
    s.audio (audioSet1 b d) = (false, (s.audioOn t (awrite (s.apu.page + zext d) (v ||| (1#8 <<< b.toNat)))).2) := by
  rw [audioSet1, audio_eq, audioOn_dpAddr_bind, audioOn_bind h, audioOn_awrite_bind, audioOn_pure, putBit_true]

theorem audioClr1_run {d : Byte} (h : s.audio (aread (s.apu.page + zext d)) = (v, t)) (b : BitVec 3) :
    s.audio (audioClr1 b d) = (false, (s.audioOn t (awrite (s.apu.page + zext d) (v &&& ~~~(1#8 <<< b.toNat)))).2) := by
  rw [audioClr1, audio_eq, audioOn_dpAddr_bind, audioOn_bind h, audioOn_awrite_bind, audioOn_pure, putBit_false]

/-- TSET1 sets n and z between its read and its write (R745). -/
theorem audioTset1_run {a : Word} (h : s.audio (aread a) = (v, t)) : s.audio (audioTset1 a) =
    (false, (s.audioOn { t with psw := pswNz (t.a - v) t.psw } (awrite a (v ||| t.a))).2) := by
  rw [audioTset1, audio_bind h, audioOn_get_bind, audioOn_bind (setnz_run s t _), audioOn_awrite_bind, audioOn_pure]

theorem audioTclr1_run {a : Word} (h : s.audio (aread a) = (v, t)) : s.audio (audioTclr1 a) =
    (false, (s.audioOn { t with psw := pswNz (t.a - v) t.psw } (awrite a (v &&& ~~~t.a))).2) := by
  rw [audioTclr1, audio_bind h, audioOn_get_bind, audioOn_bind (setnz_run s t _), audioOn_awrite_bind, audioOn_pure]

section MemoryBit

variable {m : BitVec 13} (h : s.audio (aread (m.setWidth 16)) = (v, t)) (b : BitVec 3)
include h

theorem memBit_run : s.audio (memBit m b) = (v.getLsbD b.toNat, t) := by
  rw [memBit, audio_bind h, audioOn_pure]

/-- An instruction that reads a bit of memory and then makes c what `f` says of the flags and the bit (R747 to R749, R751). -/
theorem carryBit_ended {i : Instr} {body : Bool → A Bool} {f : Byte → Bool → Bool}
    (hi : audioBody i = some (memBit m b >>= body))
    (hbody : ∀ x u, s.audioOn u (body x) = (false, { u with psw := putBit aC (f u.psw x) u.psw })) : ∃ q : Byte,
      exec i s = .next (s.audioEnded i false { t with psw := q }) ∧ OneFlag 0 (f t.psw (v.getLsbD b.toNat)) t.psw q :=
  ⟨_, exec_audioEnded hi ((audio_bind (memBit_run h b)).trans (hbody _ t)), oneFlag_putBit (by decide) _ _⟩

theorem audioNot1_run : s.audio (audioNot1 m b) =
    (false, (s.audioOn t (awrite (m.setWidth 16) (v ^^^ (1#8 <<< b.toNat)))).2) := by
  rw [audioNot1, audio_bind h, audioOn_awrite_bind, audioOn_pure]
  rfl

theorem audioMov1St_run : s.audio (audioMov1St m b) = (false, (s.audioOn t (awrite (m.setWidth 16)
    ((v &&& ~~~(1#8 <<< b.toNat)) ||| (if t.psw.getLsbD 0 then 1#8 <<< b.toNat else 0)))).2) := by
  rw [audioMov1St, audio_bind h]
  rfl

end MemoryBit

end Bits

/-! ## The flag instructions -/

/-- An instruction that makes one flag `x` (R752 to R754, R756 to R759). -/
theorem flagInstr_ended {s : State} {i : Instr} {body : A Bool} {j : Nat} {x : Bool} (hi : audioBody i = some body) (hj : j < 8)
    (hbody : s.audio body = (false, { s.apu with psw := putBit j x s.apu.psw })) : ∃ q : Byte,
      exec i s = .next (s.audioEnded i false { s.apu with psw := q }) ∧ (∀ k ∈ [j], q.getLsbD k = x) ∧
        ∀ k, k ∉ [j] → q.getLsbD k = s.apu.psw.getLsbD k := by
  obtain ⟨hx, hkept⟩ := oneFlag_putBit hj x s.apu.psw
  exact ⟨_, exec_audioEnded hi hbody, by simpa using hx, by simpa using hkept⟩

/-- CLRV clears two flags (R755). -/
theorem pswClrv_flags (p : Byte) : (∀ k ∈ [3, 6], (putBit aH false (putBit aV false p)).getLsbD k = false) ∧
    ∀ k, k ∉ [3, 6] → (putBit aH false (putBit aV false p)).getLsbD k = p.getLsbD k := by
  obtain ⟨hv, hkept⟩ := oneFlag_putBit (j := aV) (by decide) false p
  obtain ⟨hh, hkept'⟩ := oneFlag_putBit (j := aH) (by decide) false (putBit aV false p)
  refine ⟨?_, fun k hk => ?_⟩
  · simpa using ⟨hh, (hkept' 6 (by decide)).trans hv⟩
  · obtain ⟨h3, h6⟩ : k ≠ 3 ∧ k ≠ 6 := by simpa using hk
    exact (hkept' k h3).trans (hkept k h6)

/-- Settles O59: the bit instructions read a byte once and write it back changed, or go on from one bit of it; the flag instructions
put one flag each, and CLRV two. -/
theorem audioBitsAndFlags : Obligations.AudioBitsAndFlags := by
  intro s b d a m neg u
  refine ⟨?_, fun v t h e he => ?_, fun v t h => ⟨fun e he => ?_, exec_audioEnded rfl (audioNot1_run h b),
    exec_audioEnded rfl (audioMov1St_run h b)⟩, fun e he => ?_, exec_audioEnded rfl rfl, exec_audioEnded rfl rfl,
    exec_audioEnded rfl rfl⟩
  · rintro v t h r
    exact ⟨fun hr => hr ▸ exec_audioEnded rfl (audioSet1_run h b), fun hr => hr ▸ exec_audioEnded rfl (audioClr1_run h b)⟩
  · simp only [List.mem_cons, List.not_mem_nil, or_false] at he
    rcases he with rfl | rfl
    · exact ⟨_, exec_audioEnded rfl (audioTset1_run h), pswNz_nzAfter _ _⟩
    · exact ⟨_, exec_audioEnded rfl (audioTclr1_run h), pswNz_nzAfter _ _⟩
  · simp only [List.mem_cons, List.not_mem_nil, or_false] at he
    rcases he with rfl | rfl | rfl | rfl
    · exact carryBit_ended h b (f := fun p x => p.getLsbD 0 && (x ^^ neg)) rfl fun _ _ => rfl
    · exact carryBit_ended h b (f := fun p x => p.getLsbD 0 || (x ^^ neg)) rfl fun _ _ => rfl
    · exact carryBit_ended h b (f := fun p x => p.getLsbD 0 ^^ x) rfl fun _ _ => rfl
    · exact carryBit_ended h b (f := fun _ x => x) rfl fun _ _ => rfl
  · simp only [List.mem_cons, List.not_mem_nil, or_false] at he
    rcases he with rfl | rfl | rfl | rfl | rfl | rfl | rfl | rfl
    case inr.inr.inr.inl => exact ⟨_, exec_audioEnded rfl rfl, pswClrv_flags u.psw⟩
    all_goals exact flagInstr_ended rfl (by decide) rfl

end Sys2Proof.Proofs

/-! # PROOFS. O8 and O11: fatal states, and events due after a step (R830, R851, R852, R1062, R1065, R1066) -/

namespace Sys2Proof.Proofs

open Sys2Proof Sys2Proof.Machine Sys2Proof.Laws

/-! ## Fatal states -/

theorem step_of_fatal {s : State} {f : Fatal} (h : s.fatal = some f) : step s = .fault (.fatal f s) := by
  rw [step, h]

/-- A fatal condition leaves its kind in the final state (R830; log 9). -/
theorem fatal_of_outcomeOf_fault {r : EStateM.Result Stop State Unit} {f : Fatal} {t : State}
    (h : outcomeOf r = .fault (.fatal f t)) : t.fatal = some f := by
  unfold outcomeOf at h
  split at h
  case h_1 => cases h
  case h_2 =>
    cases h
    rfl
  case h_3 => cases h

/-- A faulting instruction leaves a fatal state: those that reach the bus or branch under a condition end where their bodies do, and
every other completes (R400, R830, R980). -/
theorem fatal_of_exec_fault {i : Instr} {s t : State} {f : Fatal} (h : exec i s = .fault (.fatal f t)) : t.fatal = some f := by
  cases i
  case lda | ldx | ldy | sta | stx | sty | stz | mvn | mvp | adc | sbc | cmp | cpx | cpy | and | ora | eor | bit | tsb | trb =>
    exact fatal_of_outcomeOf_fault h
  case inc | dec | asl | lsr | rol | ror | bpl | bmi | bvc | bvs | bcc | bcs | bne | beq => exact fatal_of_outcomeOf_fault h
  case pha | phx | phy | php | phb | phk | phd | pla | plx | ply | plp | plb | pld | pea | pei | per =>
    exact fatal_of_outcomeOf_fault h
  case jmpInd | jmpIndX | jmlInd | jsr | jsrIndX | jsl | rts | rtl | rti | brk | cop => exact fatal_of_outcomeOf_fault h
  all_goals cases h

/-- The state a faulting step leaves is fatal (R830). -/
theorem fatal_of_step_fault {s t : State} {f : Fatal} (h : step s = .fault (.fatal f t)) : t.fatal = some f := by
  unfold step at h
  split at h
  case h_1 hf =>
    cases h
    exact hf
  case h_2 =>
    split_ifs at h
    · exact fatal_of_outcomeOf_fault h
    · split at h
      case h_1 =>
        cases h
        rfl
      case h_2 => cases h
      case h_3 =>
        split at h
        case h_1 => exact fatal_of_outcomeOf_fault h
        case h_2 hexec =>
          cases h
          exact fatal_of_exec_fault hexec
        case h_3 => cases h

/-- A load, completed or not, says nothing of `reset()` (R1062). -/
theorem loadCartridge_resetDone (k : Cartridge) (s : State) : (loadCartridge k s).resetDone = s.resetDone := by
  unfold loadCartridge
  split <;> rfl

/-- After a load `reset()` must come before the next step (R1065, R1066). -/
theorem loadRom_resetDone (k : Cartridge) (s : State) : (loadRom k s).resetDone = false := by
  rw [loadRom, loadCartridge_resetDone]
  split
  · rfl
  · rename_i h
    simpa using h

/-- Settles O8: every fault comes with the fatal state it ends in, and a step begins by looking for one. -/
theorem fatalStateIsFinal : Obligations.FatalStateIsFinal := by
  refine ⟨fun s f hf => ⟨step_of_fatal hf, ?_, ?_⟩, fun s t f h => ?_, fun s hf hr => ?_, fun s k => loadRom_resetDone k s⟩
  · rw [hostStep, step_of_fatal hf, report]
  · rw [runFrame, hf]
  · have ht : t.fatal = some f := fatal_of_step_fault h
    exact ⟨ht, step_of_fatal ht⟩
  · rw [step, hf]
    simp [hr]

/-! ## Due events -/

theorem ts_le_of_before {a b : Event} (h : a.before b = true) : a.ts ≤ b.ts := by
  simp only [Event.before, Bool.or_eq_true, Bool.and_eq_true, decide_eq_true_eq] at h
  omega

/-- In an ordered queue whose head is not due nothing is (R181, R852). -/
theorem not_due_of_mem {s : State} (hq : s.sched.queue.Pairwise fun a b => a.before b = true) (h : NoDueEvent s) {e : Event}
    (he : e ∈ s.sched.queue) : s.sched.master < e.ts := by
  cases hs : s.sched.queue with
  | nil => simp [hs] at he
  | cons a rest =>
    have ha : s.sched.master < a.ts := h a (by rw [hs]; rfl)
    rw [hs] at hq he
    rcases List.mem_cons.1 he with rfl | he
    · exact ha
    · exact Nat.lt_of_lt_of_le ha (ts_le_of_before (List.rel_of_pairwise_cons hq he))

/-- Settles O11: a step ends with its queue's head not due, and the invariant it keeps orders the queue. -/
theorem noDueEventIsLeft : Obligations.NoDueEventIsLeft := by
  intro s t hinv h e he
  obtain ⟨-, -, hdue⟩ := step_rel h
  exact not_due_of_mem (invariantKept s t hinv h).dev.queue hdue he

end Sys2Proof.Proofs

/-! # PROOFS. O13 and O14: interrupt entry and the NMI (R602, R603, R804 to R808) -/

namespace Sys2Proof.Proofs

open Sys2Proof Sys2Proof.Machine Sys2Proof.Laws

theorem decS_iterate_status (b : Cpu) (n : Nat) : (Cpu.decS^[n] b).p = b.p ∧ (Cpu.decS^[n] b).e = b.e := by
  induction n generalizing b with
  | zero => exact ⟨rfl, rfl⟩
  | succ n ih => exact ih b.decS

/-- Where the frame's bytes are writable, an entry pushes them, and moves S alone among the registers (R805, R807). -/
theorem pushFrame_mapped {s u : State} {k : IntKind} {ret : Word}
    (hnative : s.cpu.e = false →
      ((s.push8? s.cpu.pbr).bind (State.push16? ret)).bind (State.push8? s.cpu.p) = some u)
    (hemulation : s.cpu.e = true → (s.push16? ret).bind (State.push8? (emuP k s.cpu.p)) = some u) :
    (pushFrame k ret).run s = .ok () u ∧ u.cfg = s.cfg ∧ ∃ n, u.cpu = Cpu.decS^[n] s.cpu := by
  rw [pushFrame, bind_ok (getCpu_run s)]
  cases he : s.cpu.e with
  | true =>
    obtain ⟨s₁, hret, hp⟩ := Option.bind_eq_some_iff.1 (hemulation he)
    refine ⟨?_, (push8?_cfg hp).trans (push16?_cfg hret), 3, by rw [push8?_cpu hp, push16?_cpu hret]; rfl⟩
    exact (bind_ok (push16_mapped hret)).trans (push8_mapped hp)
  | false =>
    obtain ⟨s₂, hrest, hp⟩ := Option.bind_eq_some_iff.1 (hnative he)
    obtain ⟨s₁, hbank, hret⟩ := Option.bind_eq_some_iff.1 hrest
    refine ⟨?_, (push8?_cfg hp).trans ((push16?_cfg hret).trans (push8?_cfg hbank)), 4, ?_⟩
    · exact (bind_ok (push8_mapped hbank)).trans ((bind_ok (push16_mapped hret)).trans (push8_mapped hp))
    · rw [push8?_cpu hp, push16?_cpu hret, push8?_cpu hbank]
      rfl

/-- A mapped vector is read without effect (R805, R806). -/
theorem readVector_mapped {s : State} {a v : Word} (h : s.word? (.bank 0 a) .w16 = some v) : (readVector a).run s = .ok v s := by
  obtain ⟨l, hl, hrest⟩ := Option.bind_eq_some_iff.1 h
  obtain ⟨m, hm, rfl⟩ := Option.map_eq_some_iff.1 hrest
  have hl' : s.byte? (mkAddr 0 a) = some l := by rwa [Loc.at, BitVec.add_zero] at hl
  have hm' : s.byte? (mkAddr 0 (a + 1)) = some m := hm
  rw [readVector, bind_ok (read8_mapped hl'), bind_ok (read8_mapped hm')]
  rfl

/-- An entry whose frame has been pushed and whose vector is mapped (R805). -/
theorem interrupt_mapped {s u : State} {k : IntKind} {ret v : Word} {n : Nat} (hok : s.cpu.Ok)
    (hpush : (pushFrame k ret).run s = .ok () u) (hcpu : u.cpu = Cpu.decS^[n] s.cpu)
    (hvec : u.word? (.bank 0 (vector k s.cpu.e)) .w16 = some v) :
    (interrupt k ret).run s =
      .ok () (u.onCpu fun b => { b with p := (s.cpu.p ||| 0x04) &&& 0xF7, pbr := 0, pc := v, waiting := false }) := by
  obtain ⟨hp, he⟩ := decS_iterate_status s.cpu n
  rw [← hcpu] at hp he
  have he' : (u.onCpu Cpu.enterInterrupt).cpu.e = s.cpu.e := by
    rw [onCpu_cpu, Cpu.enterInterrupt, writeP_eq_withP]
    exact he
  have hread : (readVector (vector k s.cpu.e)).run (u.onCpu Cpu.enterInterrupt) = .ok v (u.onCpu Cpu.enterInterrupt) :=
    readVector_mapped hvec
  rw [interrupt, bind_ok hpush, bind_ok (onCpu_run _ u), bind_ok (getCpu_run _), he', bind_ok hread]
  have hregs := enterInterrupt_entered (hcpu ▸ decS_iterate_ok hok n) v
  rw [entered, hp] at hregs
  exact congrArg (fun b => EStateM.Result.ok () (u.onCpu fun _ => b)) hregs

theorem cpuCycles_native {op : Byte} {c : Nat} (h : cycleRow op = ⟨c, [.native]⟩) (b : Cpu) (f : Facts) :
    cpuCycles op b f = if b.e then c else c + 1 := by
  rw [cpuCycles, h]
  cases he : b.e <;> simp [addedCost, he]

/-- Settles O13: the pushes end in `u`, whose registers are those before but for S, and there the vector is read. -/
theorem interruptEntry : Obligations.InterruptEntry := by
  intro s u k ret v hok hnative hemulation hvec
  obtain ⟨hpush, hcfg, n, hcpu⟩ := pushFrame_mapped hnative hemulation
  have hrun := interrupt_mapped hok hpush hcpu hvec
  refine ⟨hrun, ?_, ?_, fun hcosts sig i hi => ?_⟩
  · rintro rfl rfl sig
    refine runInstr_ended ?_ hcfg
    rw [bind_ok (getCpu_run s), bind_ok hrun]
    rfl
  · rintro rfl rfl sig
    refine runInstr_ended ?_ hcfg
    rw [bind_ok (getCpu_run s), bind_ok hrun]
    rfl
  · obtain ⟨op, hop, hrow⟩ : ∃ op, i.opcode? = some op ∧ cycleRow op = ⟨7, [.native]⟩ := by
      simp only [List.mem_cons, List.not_mem_nil, or_false] at hi
      rcases hi with rfl | rfl
      all_goals exact ⟨_, rfl, rfl⟩
    exact (instrCost_default hcosts hop _ _).trans (cpuCycles_native hrow _ _)

/-- Settles O14: an NMI is the entry with PC, and its cycles. -/
theorem nmiEntry : Obligations.NmiEntry := by
  refine fun s => ⟨fun hs => ?_, fun hs u hentry => ⟨interrupt_waiting hentry, ?_⟩⟩
  · rw [fireNmi, bind_ok (getCpu_run s), hs]
    rfl
  · rw [fireNmi, bind_ok (getCpu_run s), hs]
    exact bind_ok hentry

end Sys2Proof.Proofs

/-! # PROOFS. The CPU I/O registers on the bus (R230, R236) -/

namespace Sys2Proof.Proofs

open Sys2Proof Sys2Proof.Machine Sys2Proof.Laws

section IoRegisters

variable {s : State} {bank : Byte} {off : Word} (hb : LowBank bank)
  (h : 0x4200 ≤ off.toNat ∧ off.toNat ≤ 0x420D ∨ 0x4210 ≤ off.toNat ∧ off.toNat ≤ 0x421F)

include hb h

/-- A CPU I/O register is the same one in every bank that shows the window (R230). -/
theorem ioRead_ioRegister : ioRead (mkAddr bank off) = ioRead (mkAddr 0 off) := by
  have hw : ioWindow bank.toNat off.toNat = true := ioWindow_iff.2 ⟨hb, by omega, by omega⟩
  have hw0 : ioWindow (0 : Byte).toNat off.toNat = true := ioWindow_iff.2 ⟨.inl (by decide), by omega, by omega⟩
  have hbbus : ¬(0x2100 ≤ off.toNat ∧ off.toNat ≤ 0x21FF) := by omega
  simp only [ioRead, bankOf_mkAddr, offOf_mkAddr, hw, hw0, hbbus, Bool.not_true, Bool.false_eq_true, if_false]
  repeat refine ite_congr rfl (fun _ => rfl) fun _ => ?_
  omega

theorem ioWrite_ioRegister (v : Byte) : ioWrite (mkAddr bank off) v = ioWrite (mkAddr 0 off) v := by
  have hw : ioWindow bank.toNat off.toNat = true := ioWindow_iff.2 ⟨hb, by omega, by omega⟩
  have hw0 : ioWindow (0 : Byte).toNat off.toNat = true := ioWindow_iff.2 ⟨.inl (by decide), by omega, by omega⟩
  have hbbus : ¬(0x2100 ≤ off.toNat ∧ off.toNat ≤ 0x21FF) := by omega
  simp only [ioWrite, bankOf_mkAddr, offOf_mkAddr, hw, hw0, hbbus, Bool.not_true, Bool.false_eq_true, if_false]
  repeat refine ite_congr rfl (fun _ => rfl) fun _ => ?_
  omega

theorem read8_ioRegister : (read8 (mkAddr bank off)).run s = (ioRead (mkAddr 0 off)).run s := by
  rw [read8_window hb (by omega) (by omega), ioRead_ioRegister hb h]

theorem write8_ioRegister (v : Byte) : (write8 (mkAddr bank off) v).run s = (ioWrite (mkAddr 0 off) v).run s := by
  rw [write8_window v hb (by omega) (by omega), ioWrite_ioRegister hb h]

end IoRegisters

/-! # PROOFS. O23: the math engine (R960 to R964) -/

/-- The product of two bytes fits a word (R961). -/
theorem product_toNat (a b : Byte) : (BitVec.ofNat 16 (a.toNat * b.toNat)).toNat = a.toNat * b.toNat := by
  have hlt : a.toNat * b.toNat < 2 ^ 16 :=
    Nat.lt_of_le_of_lt (Nat.mul_le_mul (Nat.le_of_lt_succ a.isLt) (Nat.le_of_lt_succ b.isLt)) (by decide)
  rw [BitVec.toNat_ofNat, Nat.mod_eq_of_lt hlt]

theorem zext_toNat (b : Byte) : (zext b).toNat = b.toNat := by
  rw [zext, BitVec.toNat_setWidth, Nat.mod_eq_of_lt (Nat.lt_trans b.isLt (by decide))]

/-- What WRDIVB does, by cases on the divisor (R963). -/
theorem writeDivB_cases (v : Byte) (u : MathUnit) : ∃ r q : Word,
    writeDivB v u = { u with wrdivb := v, rdmpy := r, rddiv := q } ∧ (v = 0 → q = 0xFFFF ∧ r = u.wrdiv) ∧
      (v ≠ 0 → r.toNat < v.toNat ∧ q.toNat * v.toNat + r.toNat = u.wrdiv.toNat) := by
  by_cases hv : v = 0
  · refine ⟨u.wrdiv, 0xFFFF, ?_, fun _ => ⟨rfl, rfl⟩, fun h => absurd hv h⟩
    rw [writeDivB, if_pos hv]
  · have hpos : 0 < v.toNat := Nat.pos_of_ne_zero fun h => hv (BitVec.eq_of_toNat_eq h)
    have hq : u.wrdiv.toNat / v.toNat < 2 ^ 16 := Nat.lt_of_le_of_lt (Nat.div_le_self _ _) u.wrdiv.isLt
    have hr : u.wrdiv.toNat % v.toNat < 2 ^ 16 := Nat.lt_of_le_of_lt (Nat.mod_le _ _) u.wrdiv.isLt
    refine ⟨BitVec.ofNat 16 (u.wrdiv.toNat % v.toNat), BitVec.ofNat 16 (u.wrdiv.toNat / v.toNat), ?_,
      fun h => absurd h hv, fun _ => ?_⟩
    · rw [writeDivB, if_neg hv]
    · rw [BitVec.toNat_ofNat, BitVec.toNat_ofNat, Nat.mod_eq_of_lt hq, Nat.mod_eq_of_lt hr]
      exact ⟨Nat.mod_lt _ hpos, Nat.div_add_mod' _ _⟩

/-- Settles O23: each register of the engine is a function of its byte and the engine alone. -/
theorem mathEngine : Obligations.MathEngine := by
  intro s bank v hb
  refine ⟨(write8_ioRegister hb (by decide) v).trans rfl,
    ⟨_, _, (write8_ioRegister hb (by decide) v).trans rfl, product_toNat _ _, zext_toNat v⟩,
    (write8_ioRegister hb (by decide) v).trans rfl, (write8_ioRegister hb (by decide) v).trans rfl, ?_,
    (read8_ioRegister hb (by decide)).trans rfl, (read8_ioRegister hb (by decide)).trans rfl,
    (read8_ioRegister hb (by decide)).trans rfl, (read8_ioRegister hb (by decide)).trans rfl⟩
  obtain ⟨r, q, hwrite, hresult⟩ := writeDivB_cases v s.math
  have hrun : (write8 (mkAddr bank 0x4206) v).run s = .ok () (s.onMath (writeDivB v)) :=
    (write8_ioRegister hb (by decide) v).trans rfl
  rw [State.onMath, hwrite] at hrun
  exact ⟨r, q, hrun, hresult⟩

/-! # PROOFS. O24: the interrupt controller's registers (R811 to R815) -/

/-- RDNMI's byte: the flag, three bits of open bus and the version (R812). -/
theorem rdnmi_bits : ∀ (flag : Bool) (u : Byte), (bitAt 7 flag ||| (u &&& 0x70) ||| 0x02).getLsbD 7 = flag ∧
    (bitAt 7 flag ||| (u &&& 0x70) ||| 0x02) &&& 0x0F = 0x02 := by
  decide +kernel

/-- HVBJOY's byte (R814). -/
theorem hvbjoy_bits : ∀ (v h : Bool) (u : Byte), (bitAt 7 v ||| bitAt 6 h ||| (u &&& 0x3E)).getLsbD 7 = v ∧
    (bitAt 7 v ||| bitAt 6 h ||| (u &&& 0x3E)).getLsbD 6 = h ∧ (bitAt 7 v ||| bitAt 6 h ||| (u &&& 0x3E)).getLsbD 0 = false := by
  decide +kernel

theorem timeup_bit (u : Byte) : (u &&& 0x7F).getLsbD 7 = false := by
  simp

/-- The registers and the marks NMITIMEN writes (R815, R832). -/
def nmitimenSet (v : Byte) (s : State) : State :=
  { s with
    io := { s.io with nmiEn := v.getLsbD 7, virqEn := v.getLsbD 5, hirqEn := v.getLsbD 4, autojoy := v.getLsbD 0 }
    marks := { s.marks with hvIrq := s.marks.hvIrq || v.getLsbD 5 || v.getLsbD 4 } }

/-- NMITIMEN queues an NMI where it enables it while the flag is set (R815). -/
theorem writeNmitimen_run (v : Byte) (s : State) : (writeNmitimen v).run s = .ok () { nmitimenSet v s with
    sched := if s.io.nmiEn = false ∧ v.getLsbD 7 = true ∧ s.io.rdnmiFlag = true then s.sched.push .assertNmi s.sched.master
      else s.sched } := by
  have hcond : (!s.io.nmiEn && v.getLsbD 7 && s.io.rdnmiFlag) = true ↔
      s.io.nmiEn = false ∧ v.getLsbD 7 = true ∧ s.io.rdnmiFlag = true := by
    simp [and_assoc]
  have hrun : (writeNmitimen v).run s =
      (if !s.io.nmiEn && v.getLsbD 7 && s.io.rdnmiFlag then pushEvent .assertNmi s.sched.master else pure ()).run
        (nmitimenSet v s) := rfl
  rw [hrun]
  by_cases h : s.io.nmiEn = false ∧ v.getLsbD 7 = true ∧ s.io.rdnmiFlag = true
  · rw [if_pos (hcond.2 h), if_pos h]
    rfl
  · rw [if_neg fun hc => h (hcond.1 hc), if_neg h]
    rfl

/-- Settles O24: each read is a byte of flags and open bus, and NMITIMEN's condition is that of its rule. -/
theorem interruptRegisters : Obligations.InterruptRegisters := by
  intro s bank v hb
  refine ⟨⟨_, _, (read8_ioRegister hb (by decide)).trans rfl, rfl, rdnmi_bits _ _⟩,
    (write8_ioRegister hb (by decide) v).trans rfl,
    ⟨_, _, (read8_ioRegister hb (by decide)).trans rfl, rfl, timeup_bit _⟩,
    ⟨_, _, (read8_ioRegister hb (by decide)).trans rfl, rfl, hvbjoy_bits _ _ _⟩,
    _, (write8_ioRegister hb (by decide) v).trans (writeNmitimen_run v s), rfl, rfl, rfl, rfl⟩

end Sys2Proof.Proofs

/-! # PROOFS. O25: the VRAM, palette and OAM ports (R881, R882, R889 to R894, R910) -/

namespace Sys2Proof.Proofs

open Sys2Proof Sys2Proof.Machine Sys2Proof.Laws

/-! ## A write of a PPU register on the bus (R231) -/

section PpuRegister

variable {s : State} {bank v : Byte} {off : Word} {f : Ppu → Ppu} (hb : LowBank bank) (h : ppuWrite? off.toNat v = some f)

include hb h

/-- A PPU register's write is its function of the PPU, and the mark of VMAIN (R231, R889). -/
theorem write8_ppuRegister_marked :
    (write8 (mkAddr bank off) v).run s = .ok () ((s.onPpu f).onMarks (vmainMark off.toNat v)) := by
  have hoff : 0x2100 ≤ off.toNat ∧ off.toNat ≤ 0x2133 := by
    by_contra hout
    rw [ppuWrite?_eq_none v (by omega)] at h
    cases h
  rw [write8_bbus v hb hoff.1 (by omega), bbusWrite, offOf_mkAddr, h]
  rfl

/-- Every register but VMAIN raises no mark (R889). -/
theorem write8_ppuRegister (hoff : off.toNat ≠ 0x2115) : (write8 (mkAddr bank off) v).run s = .ok () (s.onPpu f) := by
  have hmark : vmainMark off.toNat v = id := by
    funext m
    simp [vmainMark, hoff]
  rw [write8_ppuRegister_marked hb h, hmark]
  rfl

end PpuRegister

/-! ## Cells -/

/-- What every key reads as after a write (R140). -/
theorem read_write {α : Type} [DecidableEq α] {d v : α} {n k : Nat} {c : Cells α} (hc : Cells.wf d n c = true) (j : Nat) :
    Cells.read d j (Cells.write d k v c) = if j = k then v else Cells.read d j c := by
  split_ifs with h
  · rw [h, read_write_same hc]
  · exact read_write_other h c

/-! ## The registers' fields -/

/-- A low byte written below the bits an address keeps (R881, R890). -/
theorem toNat_replaceLow {n : Nat} (w : BitVec (8 + n)) (v : Byte) :
    (w.extractLsb' 8 n ++ v).toNat = w.toNat / 256 * 256 + v.toNat := by
  have hw : w.toNat / 2 ^ 8 < 2 ^ n := Nat.div_lt_of_lt_mul (Nat.pow_add 2 8 n ▸ w.isLt)
  rw [toNat_append, BitVec.extractLsb'_toNat, Nat.shiftRight_eq_div_pow, Nat.mod_eq_of_lt hw]
  rfl

/-- The low bits of a byte written above the low byte an address keeps (R881, R890). -/
theorem toNat_replaceHigh {m n : Nat} (v : Byte) (w : BitVec m) :
    (v.extractLsb' 0 n ++ w.extractLsb' 0 8).toNat = v.toNat % 2 ^ n * 256 + w.toNat % 256 := by
  rw [toNat_append, BitVec.extractLsb'_toNat, BitVec.extractLsb'_toNat, Nat.shiftRight_zero, Nat.shiftRight_zero]
  rfl

/-- VMAIN's address step (R889). -/
theorem vramStep_eq : ∀ n : BitVec 2, vramStep n = match n with | 0#2 => 1 | 1#2 => 32 | _ => 128 := by decide

theorem vmainMark_eq (v : Byte) (m : Marks) :
    vmainMark 0x2115 v m = { m with vramRemap := m.vramRemap || decide (v.extractLsb' 2 2 ≠ 0) } := by
  by_cases h : v.extractLsb' 2 2 = 0#2
  · simp [vmainMark, h]
  · simp [vmainMark, h]

/-- The OAM pointer of a word address: above 0x100 the 32-byte high table over and over (R881). -/
theorem oamPtrOf_toNat (a : BitVec 9) :
    (oamPtrOf a).toNat = if a.toNat < 256 then 2 * a.toNat else 512 + 2 * a.toNat % 32 := by
  have ha := a.isLt
  rw [oamPtrOf, BitVec.toNat_ofNat]
  split_ifs <;> omega

/-- The OAM pointer moves on by one, and wraps at the end of OAM (R882). -/
theorem oamNext_toNat {p : BitVec 10} (hp : p.toNat < 544) :
    (BitVec.ofNat 10 ((p.toNat + 1) % 544)).toNat = if p.toNat = 543 then 0 else p.toNat + 1 := by
  rw [BitVec.toNat_ofNat]
  split_ifs <;> omega

theorem component8_toNat : ∀ c : BitVec 5, (component8 c).toNat = c.toNat * 8 + c.toNat / 4 := by decide

/-- The components of a colour are its three fields of 5 bits (R910). -/
theorem rgba_components (c : BitVec 15) : (rgba c).r.toNat = c.toNat % 32 * 8 + c.toNat % 32 / 4 ∧
    (rgba c).g.toNat = c.toNat / 32 % 32 * 8 + c.toNat / 32 % 32 / 4 ∧
    (rgba c).b.toNat = c.toNat / 1024 * 8 + c.toNat / 1024 / 4 ∧ (rgba c).a = 0xFF := by
  have hc := c.isLt
  have hblue : c.toNat / 1024 % 32 = c.toNat / 1024 := by omega
  refine ⟨component8_toNat _, ?_, ?_, rfl⟩
  · exact (component8_toNat _).trans (by rw [BitVec.extractLsb'_toNat, Nat.shiftRight_eq_div_pow])
  · exact (component8_toNat _).trans (by rw [BitVec.extractLsb'_toNat, Nat.shiftRight_eq_div_pow, hblue])

/-- Settles O25: each port is a function of the PPU, and its address is a few of its own bits or one further. -/
theorem ppuMemoryPorts : Obligations.PpuMemoryPorts := by
  intro s bank v hb hm hp put
  obtain ⟨-, -, -, hvram, hcgram, hoam, -⟩ := memory_wf_iff.1 hm
  have port (off : Word) {f : Ppu → Ppu} (h : ppuWrite? off.toNat v = some f) (hoff : off.toNat ≠ 0x2115) :
      put off = .ok () (s.onPpu f) := write8_ppuRegister hb h hoff
  refine ⟨⟨_, write8_ppuRegister_marked hb rfl, rfl, rfl, vmainMark_eq v s.marks⟩,
    ⟨_, port 0x2116 rfl (by decide), rfl, toNat_replaceLow (n := 7) s.ppu.vaddr v⟩,
    ⟨_, port 0x2117 rfl (by decide), rfl, toNat_replaceHigh (n := 7) v s.ppu.vaddr⟩,
    ⟨_, port 0x2118 rfl (by decide), rfl, fun k => ?_, ?_⟩, ⟨_, port 0x2119 rfl (by decide), rfl, fun k => ?_, ?_⟩,
    port 0x2121 rfl (by decide), fun hfull => ?_, fun hfull => ?_,
    ⟨_, _, port 0x2102 rfl (by decide), toNat_replaceLow (n := 1) s.ppu.oamaddr v, oamPtrOf_toNat _⟩,
    ⟨_, _, port 0x2103 rfl (by decide), toNat_replaceHigh (n := 1) v s.ppu.oamaddr, oamPtrOf_toNat _⟩,
    ⟨_, port 0x2104 rfl (by decide), rfl, read_write hoam, oamNext_toNat hp⟩, rgba_components⟩
  · refine (read_write hvram k).trans ?_
    split_ifs with hk
    · rw [hk]; rfl
    · rfl
  · exact congrArg (fun step => if s.ppu.vincHigh then s.ppu.vaddr else s.ppu.vaddr + step) (vramStep_eq _)
  · refine (read_write hvram k).trans ?_
    split_ifs with hk
    · rw [hk]; rfl
    · rfl
  · exact congrArg (fun step => if s.ppu.vincHigh then s.ppu.vaddr + step else s.ppu.vaddr) (vramStep_eq _)
  · refine (port 0x2122 (f := writeCgData v) rfl (by decide)).trans ?_
    rw [State.onPpu, writeCgData, hfull]
    rfl
  · have hrun := port 0x2122 (f := writeCgData v) rfl (by decide)
    rw [State.onPpu, writeCgData, hfull] at hrun
    refine ⟨_, hrun, rfl, fun k hk => read_write_other hk _, ?_, rfl⟩
    refine (congrArg BitVec.toNat (read_write_same hcgram)).trans ?_
    rw [toNat_append, BitVec.extractLsb'_toNat, Nat.shiftRight_zero]
    rfl

end Sys2Proof.Proofs

/-! # PROOFS. O26: the scroll ports, the Mode-7 registers and the plain PPU registers (R880, R883 to R888, R895, R965 to R968) -/

namespace Sys2Proof.Proofs

open Sys2Proof Sys2Proof.Machine Sys2Proof.Laws

/-- An update of one of four things depends on that one alone. -/
theorem quad_on_congr {α : Type} {q : Quad α} {n : Nat} {f g : α → α} (h : f (q.get n) = g (q.get n)) : q.on n f = q.on n g := by
  unfold Quad.on
  split
  · exact congrArg (fun b => { q with q0 := b }) h
  · exact congrArg (fun b => { q with q1 := b }) h
  · exact congrArg (fun b => { q with q2 := b }) h
  · rename_i h0 h1 h2
    have hget : q.get n = q.q3 := by
      unfold Quad.get
      split
      · exact absurd rfl h0
      · exact absurd rfl h1
      · exact absurd rfl h2
      · rfl
    exact congrArg (fun b => { q with q3 := b }) (hget ▸ h)

theorem hi_toNat (w : Word) : (hi w).toNat = w.toNat / 256 := by
  have hw := w.isLt
  rw [hi, BitVec.extractLsb'_toNat, Nat.shiftRight_eq_div_pow]
  omega

/-- The scroll value's low byte: five bits of the latch, three of the old value (R887). -/
theorem scrollLow_toNat (l x : Byte) : ((l &&& 0xF8) ||| (x &&& 0x07)).toNat = l.toNat / 8 * 8 + x.toNat % 8 := by
  have hmasks : ∀ b : Byte, (b &&& 0xF8).toNat = (b.toNat / 8) <<< 3 ∧ (b &&& 0x07).toNat = b.toNat % 8 := by decide
  have hlow : x.toNat % 8 < 2 ^ 3 := Nat.mod_lt _ (by decide)
  rw [BitVec.toNat_or, (hmasks l).1, (hmasks x).2, ← Nat.shiftLeft_add_eq_or_of_lt hlow, Nat.shiftLeft_eq]

/-- The value a scroll register takes from the byte written, the latch and its old value (R887). -/
def scrollValue (u : Ppu) (n : Nat) (v : Byte) : Word := mkWord v ((u.bgofsLatch &&& 0xF8) ||| (hi (u.bg.get n).hofs &&& 0x07))

theorem writeBgHofs_eq (n : Nat) (v : Byte) (u : Ppu) :
    writeBgHofs n v u = { u with bg := u.bg.on n (fun b => { b with hofs := scrollValue u n v }), bgofsLatch := v } := by
  rw [writeBgHofs, quad_on_congr (g := fun b => { b with hofs := scrollValue u n v })]
  rfl

/-- The Mode-7 product's three bytes (R967). -/
theorem mpy_bytes (u : Ppu) : (((mpy u).extractLsb' 0 8).toNat + 256 * ((mpy u).extractLsb' 8 8).toNat +
    65536 * ((mpy u).extractLsb' 16 8).toNat : Nat) = u.m7a.toInt * (hi u.m7b).toInt % 2 ^ 24 := by
  have hlt := (mpy u).isLt
  have hbytes : ((mpy u).extractLsb' 0 8).toNat + 256 * ((mpy u).extractLsb' 8 8).toNat +
      65536 * ((mpy u).extractLsb' 16 8).toNat = (mpy u).toNat := by
    simp only [BitVec.extractLsb'_toNat, Nat.shiftRight_eq_div_pow]
    omega
  rw [hbytes, mpy, BitVec.toNat_ofInt]
  exact Int.toNat_of_nonneg (Int.emod_nonneg _ (by decide))

section Layers

variable {v : Byte} {n : Nat} (h : n < 4)
include h

/-- The registers of layer `n` (R231, R885, R887, R888). -/
theorem ppuWrite?_layer : ppuWrite? (0x210D + 2 * BitVec.ofNat 16 n : Word).toNat v = some (writeBgHofs n v) ∧
    ppuWrite? (0x210E + 2 * BitVec.ofNat 16 n : Word).toNat v = some (writeBgVofs n v) ∧
    ppuWrite? (0x2107 + BitVec.ofNat 16 n : Word).toNat v = some (writeBgSc n v) := by
  interval_cases n
  all_goals exact ⟨rfl, rfl, rfl⟩

theorem layer_ne_vmain : (0x210D + 2 * BitVec.ofNat 16 n : Word).toNat ≠ 0x2115 ∧
    (0x210E + 2 * BitVec.ofNat 16 n : Word).toNat ≠ 0x2115 ∧ (0x2107 + BitVec.ofNat 16 n : Word).toNat ≠ 0x2115 := by
  interval_cases n
  all_goals decide

end Layers

/-- Settles O26: each register's write is its function of the PPU; a scroll write computes from the layer it updates. -/
theorem ppuLatchPorts : Obligations.PpuLatchPorts := by
  intro s bank v hb put
  have port (off : Word) {f : Ppu → Ppu} (h : ppuWrite? off.toNat v = some f) (hoff : off.toNat ≠ 0x2115) :
      put off = .ok () (s.onPpu f) := write8_ppuRegister hb h hoff
  refine ⟨fun n hn => ?_, port 0x211B rfl (by decide), port 0x211C rfl (by decide), ?_, ?_, port 0x2105 rfl (by decide),
    fun n hn => ?_, port 0x210B rfl (by decide), port 0x210C rfl (by decide), port 0x212C rfl (by decide),
    _, _, _, ?_, ?_, ?_, mpy_bytes s.ppu⟩
  · obtain ⟨hh, hv, -⟩ := ppuWrite?_layer (v := v) hn
    obtain ⟨hh', hv', -⟩ := layer_ne_vmain hn
    refine ⟨⟨scrollValue s.ppu n v, ?_, ?_⟩, port _ hv hv'⟩
    · rw [port _ hh hh', State.onPpu, writeBgHofs_eq]
    · rw [scrollValue, mkWord_toNat, scrollLow_toNat, hi_toNat, Nat.add_assoc]
  · intro e he
    obtain ⟨hreg, hoff⟩ : ppuWrite? e.1.toNat v = some (writeM7Stored e.2 v) ∧ e.1.toNat ≠ 0x2115 := by
      simp only [List.mem_cons, List.not_mem_nil, or_false] at he
      rcases he with rfl | rfl | rfl | rfl
      all_goals exact ⟨rfl, Nat.ne_of_beq_eq_false rfl⟩
    exact port _ hreg hoff
  · intro e he
    obtain ⟨hreg, hoff⟩ : ppuWrite? e.1.toNat v = some (writeStored e.2) ∧ e.1.toNat ≠ 0x2115 := by
      simp only [List.mem_cons, List.not_mem_nil, or_false] at he
      rcases he with rfl | rfl | rfl | rfl | rfl | rfl | rfl | rfl | rfl | rfl | rfl | rfl | rfl | rfl | rfl | rfl | rfl | rfl | rfl | rfl
      all_goals exact ⟨rfl, Nat.ne_of_beq_eq_false rfl⟩
    exact port _ hreg hoff
  · exact port _ (ppuWrite?_layer hn).2.2 (layer_ne_vmain hn).2.2
  all_goals
    rw [read8_bbus hb (by decide) (by decide), bbusRead, offOf_mkAddr]
    rfl

end Sys2Proof.Proofs

/-! # PROOFS. O60: the audio I/O registers (R985 to R989, R995) -/

namespace Sys2Proof.Proofs

open Sys2Proof Sys2Proof.Machine Sys2Proof.Laws

/-! ## Timers (R987, R988) -/

theorem targetValue_pos (target : Byte) : 0 < targetValue target := by
  unfold targetValue
  split_ifs with h
  · decide
  · exact Nat.pos_of_ne_zero fun h0 => h (BitVec.eq_of_toNat_eq h0)

theorem timerUpdate_enabled {t : Timer} (h : t.en = true) (pre now : Nat) :
    t.update pre now = { t with
      out := t.out + BitVec.ofNat 4 ((t.acc + (now - t.last)) / (pre * targetValue t.target))
      acc := (t.acc + (now - t.last)) % (pre * targetValue t.target)
      last := now } := by
  rw [Timer.update, if_pos h]

theorem timerUpdate_disabled {t : Timer} (h : t.en = false) (pre now : Nat) : t.update pre now = { t with last := now } := by
  rw [Timer.update, h, if_neg Bool.false_ne_true]

/-- A timer brought up to date and cleared is up to date (R986). -/
theorem timerUpdate_cleared (t : Timer) (pre now : Nat) :
    Timer.update pre now { t.update pre now with out := 0 } = { t.update pre now with out := 0 } := by
  cases h : t.en with
  | false =>
    rw [timerUpdate_disabled h]
    exact timerUpdate_disabled (t := { t with out := 0, last := now }) h pre now
  | true =>
    simp only [timerUpdate_enabled, h, Nat.sub_self, Nat.add_zero, Nat.mod_div_self, Nat.mod_mod]
    rfl

theorem timerControl_disabled {t : Timer} (h : t.en = false) : t.control true = { t with out := 0, acc := 0, en := true } := by
  rw [Timer.control, h]
  rfl

theorem timerControl_enabled {t : Timer} (h : t.en = true) : t.control true = t := by
  cases t
  cases h
  rfl

/-! ## Counter reads (R986) -/

section Counters

variable (s : State) (u : Apu)

theorem aread_counter0 : s.audioOn u (aread 0x00FD) = ((u.timer0.update s.cfg.prescale0 u.acycles).out.setWidth 8,
    { u with timer0 := { u.timer0.update s.cfg.prescale0 u.acycles with out := 0 } }) := rfl

theorem aread_counter1 : s.audioOn u (aread 0x00FE) = ((u.timer1.update s.cfg.prescale1 u.acycles).out.setWidth 8,
    { u with timer1 := { u.timer1.update s.cfg.prescale1 u.acycles with out := 0 } }) := rfl

theorem aread_counter2 : s.audioOn u (aread 0x00FF) = ((u.timer2.update s.cfg.prescale2 u.acycles).out.setWidth 8,
    { u with timer2 := { u.timer2.update s.cfg.prescale2 u.acycles with out := 0 } }) := rfl

end Counters

theorem counter_toNat (c : BitVec 4) : (c.setWidth 8).toNat = c.toNat := by
  rw [BitVec.toNat_setWidth, Nat.mod_eq_of_lt (Nat.lt_trans c.isLt (by decide))]

/-! ## CONTROL (R988) -/

theorem audioOn_modify (s : State) (u : Apu) (g : Apu → Apu) : s.audioOn u (modify g) = ((), g u) := rfl

theorem timerUpdate_run (s : State) (u : Apu) (t : Nat) :
    s.audioOn u (timerUpdate t) = ((), u.onTimer t (·.update (prescale s.cfg t) u.acycles)) := rfl

/-- CONTROL brings the three timers up to date before it enables or disables them (R988). -/
theorem awrite_control (s : State) (u : Apu) (v : Byte) : s.audioOn u (awrite 0x00F1 v) = ((), { u with
    timer0 := (u.timer0.update s.cfg.prescale0 u.acycles).control (v.getLsbD 0)
    timer1 := (u.timer1.update s.cfg.prescale1 u.acycles).control (v.getLsbD 1)
    timer2 := (u.timer2.update s.cfg.prescale2 u.acycles).control (v.getLsbD 2)
    pin := ⟨if v.getLsbD 4 then 0 else u.pin.q0, if v.getLsbD 4 then 0 else u.pin.q1,
      if v.getLsbD 5 then 0 else u.pin.q2, if v.getLsbD 5 then 0 else u.pin.q3⟩
    iplOn := v.getLsbD 7
    aram := Cells.write 0 0xF1 v u.aram }) := by
  have hwrite : s.audioOn u (awrite 0x00F1 v) = ((), (s.audioOn u (controlWrite v)).2.putRam 0x00F1 v) := rfl
  rw [hwrite, controlWrite, audioOn_bind (timerUpdate_run s u 0), audioOn_bind (timerUpdate_run s _ 1),
    audioOn_bind (timerUpdate_run s _ 2), audioOn_modify]
  simp only [Apu.onTimer, prescale, Apu.putRam]
  rfl

/-- Settles O60: a timer's division leaves its remainder, and every register's access is a function of the audio side. -/
theorem audioTimers : Obligations.AudioTimers := by
  intro s pre now t v hpre u t0 t1 t2
  refine ⟨fun hen hle => ?_, fun hen => timerUpdate_disabled hen pre now, timerControl_disabled, rfl, timerControl_enabled,
    ?_, ?_, ?_, ?_, awrite_control s u v, fun n hn => ?_⟩
  · have hd : 0 < pre * targetValue t.target := Nat.mul_pos hpre (targetValue_pos _)
    rw [timerUpdate_enabled hen]
    refine ⟨?_, rfl, Nat.mod_lt _ hd, rfl, hen, rfl⟩
    exact (BitVec.toNat_add _ _).trans (by rw [BitVec.toNat_ofNat, Nat.add_mod_mod]; rfl)
  · simp only [List.forall_mem_cons, List.not_mem_nil, false_imp_iff, implies_true, and_true]
    refine ⟨⟨_, aread_counter0 s u, counter_toNat _, ?_⟩, ⟨_, aread_counter1 s u, counter_toNat _, ?_⟩,
      ⟨_, aread_counter2 s u, counter_toNat _, ?_⟩⟩
    · rw [aread_counter0, timerUpdate_cleared]
      rfl
    · rw [aread_counter1, timerUpdate_cleared]
      rfl
    · rw [aread_counter2, timerUpdate_cleared]
      rfl
  · intro e he
    simp only [List.mem_cons, List.not_mem_nil, or_false] at he
    rcases he with rfl | rfl | rfl | rfl | rfl | rfl | rfl | rfl | rfl | rfl | rfl
    all_goals rfl
  · intro e he
    simp only [List.mem_cons, List.not_mem_nil, or_false] at he
    rcases he with rfl | rfl | rfl
    all_goals rfl
  · intro a ha
    simp only [List.mem_cons, List.not_mem_nil, or_false] at ha
    rcases ha with rfl | rfl | rfl | rfl | rfl | rfl
    all_goals exact ⟨_, _, rfl⟩
  · interval_cases n
    all_goals exact ⟨rfl, rfl⟩

end Sys2Proof.Proofs

/-! # PROOFS. O5 and O6: reset (R181, R850, R862, R1050, R1053) -/

namespace Sys2Proof.Proofs

open Sys2Proof Sys2Proof.Machine Sys2Proof.Laws

/-- What both reset scopes assign (R1050). -/
def resetCore (s : State) : State :=
  { s with
    cpu := Cpu.reset (resetVector s)
    apu := { Apu.reset s.cfg.init s.sched.master with draws := s.apu.draws }
    resetDone := true }

theorem resetMachine_asBuilt {s : State} (h : s.cfg.resetScope = .asBuilt) : resetMachine s = resetCore s := by
  rw [resetMachine, h]
  rfl

theorem resetMachine_full {s : State} (h : s.cfg.resetScope = .full) : resetMachine s = resetRest (resetCore s) := by
  rw [resetMachine, h]
  rfl

/-- The rest of a full reset touches neither CPU (R1053). -/
theorem resetMachine_cpus (s : State) : (resetMachine s).cpu = (resetCore s).cpu ∧ (resetMachine s).apu = (resetCore s).apu := by
  cases h : s.cfg.resetScope with
  | asBuilt =>
    rw [resetMachine_asBuilt h]
    exact ⟨rfl, rfl⟩
  | full =>
    rw [resetMachine_full h]
    exact ⟨rfl, rfl⟩

/-- Where the reset vector is mapped, it is the word there (R1050). -/
theorem resetVector_mapped {s : State} {l h : Byte} (hl : s.byte? 0x00FFFC = some l) (hh : s.byte? 0x00FFFD = some h) :
    resetVector s = mkWord h l := by
  have hl' : debugByte? s 0x00FFFC = some l := hl
  have hh' : debugByte? s 0x00FFFD = some h := hh
  rw [resetVector, hl', hh', Option.getD_some, Option.getD_some]

/-- Settles O6: both scopes assign the two CPUs, and the full scope the rest of the machine too. -/
theorem resetAssignments : Obligations.ResetAssignments := by
  intro s t
  obtain ⟨hcpu, hapu⟩ := resetMachine_cpus s
  refine ⟨⟨_, hcpu, fun l h => resetVector_mapped⟩, ⟨_, hapu⟩, fun h => ?_, fun h => ?_, startQueue_spec _⟩
  · have ht : t = resetCore s := resetMachine_asBuilt h
    rw [ht]
    rfl
  · have ht : t = resetRest (resetCore s) := resetMachine_full h
    rw [ht]
    exact ⟨_, _, startQueue_spec _, rfl⟩

/-! ## The invariant at reset -/

/-- Right after reset VBlank is off, and the queue holds the first HBLANK and the sentinel (R172, R181, R182). -/
theorem devInv_reset : State.reset.DevInv where
  memory := by decide
  oamptr := by decide
  line := List.length_replicate
  rows := by decide
  vline := by decide
  vblank := by decide
  rdnmi := by decide
  irq := rfl
  queue := by decide
  fresh := by decide
  sentinel := by decide

/-- Settles O5: emulation mode with S in page 1 and zero index registers, and HBLANK queued outside HBlank. -/
theorem invariantAtReset : Obligations.InvariantAtReset where
  cpu := ⟨fun _ => ⟨rfl, rfl⟩, fun _ => ⟨rfl, rfl, rfl⟩⟩
  dev := devInv_reset
  line := ⟨⟨.hblank, 1096, 0⟩, by decide⟩

end Sys2Proof.Proofs

/-! # PROOFS. O15: the line events and the rendering of a line (R853, R854, R897 to R910) -/

namespace Sys2Proof.Proofs

open Sys2Proof Sys2Proof.Machine Sys2Proof.Laws

/-! ## The HBLANK event (R853) -/

theorem handleHblank_blank {s : State} (h : 224 ≤ s.sched.vline) (ts : Nat) :
    (handleHblank ts).run s = .ok () (hblankEnd ts s.cfg s) := by
  simp only [handleHblank, EStateM.run_bind, EStateM.run_get, if_neg (Nat.not_lt.2 h), EStateM.run_modify, pushEvent_run]
  rfl

theorem handleHblank_drawn {s t : State} (h : s.sched.vline < 224) (hdraw : (renderLine s.sched.vline).run s = .ok () t)
    (ts : Nat) : (handleHblank ts).run s = .ok () (hblankEnd ts s.cfg t) := by
  simp only [handleHblank, EStateM.run_bind, EStateM.run_get, if_pos h, hdraw, EStateM.run_modify, pushEvent_run]
  rfl

/-- A background mode that is not implemented is fatal before anything changes (R900). -/
theorem handleHblank_unimplemented {s : State} (h : s.sched.vline < 224)
    (hmode : ¬(s.ppu.mode = 0 ∨ s.ppu.mode = 1 ∨ s.ppu.mode = 3)) (ts : Nat) :
    (handleHblank ts).run s = .error (.fatal (.bgModeUnimplemented s.ppu.mode s.sched.vline)) s := by
  have hdraw : (renderLine s.sched.vline).run s = .error (.fatal (.bgModeUnimplemented s.ppu.mode s.sched.vline)) s := by
    simp only [renderLine, EStateM.run_bind, EStateM.run_get, if_neg hmode, raise_run]
  simp only [handleHblank, EStateM.run_bind, EStateM.run_get, if_pos h, hdraw]

/-! ## The EOL event (R854) -/

section Eol

variable {s : State}

theorem eolBody_between (h1 : s.sched.vline + 1 ≠ 224) (h2 : s.sched.vline + 1 ≠ 262) : eolBody s = .ok () (eolStart s) := by
  rw [eolBody, if_neg h1, if_neg h2]

theorem eolBody_wrap (h : s.sched.vline + 1 = 262) : eolBody s = .ok () (eolWrap (eolStart s)) := by
  rw [eolBody, if_neg (by omega), if_pos h]

/-- The state that enters VBlank (R854). -/
def vblankStart (s : State) : State :=
  (s.onIo fun r => { r with hblank := false, vblank := true, rdnmiFlag := true }).onSched fun q =>
    { q with vline := 224, frameComplete := true }

theorem eolBody_vblank (h : s.sched.vline + 1 = 224) :
    eolBody s = if s.io.nmiEn then fireNmi.run (vblankStart s) else .ok () (vblankStart s) := by
  have hstart : eolVblank (eolStart s) = vblankStart s := by
    simp only [eolVblank, eolStart, vblankStart, State.onIo, State.onSched, h]
  rw [eolBody, if_pos h, hstart]
  rfl

end Eol

/-! ## A layer's pixel, in numbers (R899, R906 to R909) -/

/-- The offset of the 32 x 32 map a pixel lies in, by the size of the screen (R906). -/
def mapQuadrant (size : BitVec 2) (px py : Nat) : Nat :=
  match size with
  | 0#2 => 0
  | 1#2 => px / 256 % 2 * 0x400
  | 2#2 => py / 256 % 2 * 0x400
  | _ => px / 256 % 2 * 0x400 + py / 256 % 2 * 0x800

/-- The tile-map entry of a pixel (R906). -/
def mapEntry (vram : Cells Word) (b : BgLayer) (px py : Nat) : Word :=
  Cells.read 0 ((b.scbase.toNat * 0x400 + mapQuadrant b.scsize px py + py / 8 % 32 * 32 + px / 8 % 32) % 0x8000) vram

/-- Bits per pixel of layer `n` in an implemented mode (R901). -/
def colorDepth (mode : BitVec 3) (n : Nat) : Nat := if mode = 0 then 2 else if mode = 3 then 8 else if n = 2 then 2 else 4

/-- The colour number of a pixel, plane by plane (R908). -/
def tileColor (vram : Cells Word) (b : BgLayer) (depth : Nat) (e : Word) (px py : Nat) : Nat :=
  let row := if e.getLsbD 15 then 7 - py % 8 else py % 8
  let column := if e.getLsbD 14 then 7 - px % 8 else px % 8
  ((List.range depth).map fun k =>
    if (Cells.read 0 ((b.chbase.toNat * 0x1000 + e.toNat % 1024 * 4 * depth + row + 8 * (k / 2)) % 0x8000) vram).getLsbD
      (8 * (k % 2) + 7 - column) then 2 ^ k else 0).sum

/-- The palette index of a colour number (R909). -/
def paletteIndex (mode : BitVec 3) (n group color : Nat) : Nat :=
  if mode = 0 then n * 32 + group * 4 + color
  else if mode = 3 then color
  else if n = 2 then group * 4 + color
  else group * 16 + color

/-- The priority a rank draws, if it asks for one (R899). -/
def priOf : PriSel → Option Bool
  | .any => none
  | .high => some true
  | .low => some false

/-- What a rank shows at pixel x of line y, as a number (R899, R907). -/
def layerShown (u : Ppu) (y x n : Nat) (pri : Option Bool) : Nat :=
  let b := u.bg.get n
  let px := (x + b.hofs.toNat) % 1024
  let py := (y + b.vofs.toNat) % 1024
  let e := mapEntry u.vram b px py
  let color := tileColor u.vram b (colorDepth u.mode n) e px py
  if pri = some (!e.getLsbD 13) ∨ color = 0 then 0 else paletteIndex u.mode n (e.toNat / 1024 % 8) color

theorem testBit_eight (n k : Nat) : (if n.testBit 8 then k else 0) = n / 256 % 2 * k := by
  rw [Nat.testBit_eq_decide_div_mod_eq]
  rcases Nat.mod_two_eq_zero_or_one (n / 256) with h | h
  · simp [h]
  · simp [h]

/-- The quadrant as `mapAddr` picks it, bit 8 of each coordinate read as a digit (R906). -/
theorem quadrant_eq (size : BitVec 2) (px py : Nat) :
    (match size.toNat with
      | 0 => 0
      | 1 => if px.testBit 8 then 0x400 else 0
      | 2 => if py.testBit 8 then 0x400 else 0
      | _ => (if px.testBit 8 then 0x400 else 0) + if py.testBit 8 then 0x800 else 0) = mapQuadrant size px py := by
  have hsize : ∀ n : BitVec 2, n = 0#2 ∨ n = 1#2 ∨ n = 2#2 ∨ n = 3#2 := by decide
  simp only [testBit_eight]
  rcases hsize size with rfl | rfl | rfl | rfl
  all_goals rfl

theorem read_mapAddr (vram : Cells Word) (b : BgLayer) (px py : Nat) :
    Cells.read 0 (mapAddr b px py) vram = mapEntry vram b px py :=
  congrArg (fun q => Cells.read 0 ((b.scbase.toNat * 0x400 + q + py / 8 % 32 * 32 + px / 8 % 32) % 0x8000) vram)
    (quadrant_eq b.scsize px py)

theorem layerDepth_eq {mode : BitVec 3} (h : mode = 0 ∨ mode = 1 ∨ mode = 3) (n : Nat) : layerDepth mode n = colorDepth mode n := by
  rcases h with rfl | rfl | rfl
  all_goals rfl

theorem pixel_eq_tileColor {depth : Nat} (hd : depth % 2 = 0) (vram : Cells Word) (b : BgLayer) (e : Word) (px py : Nat) :
    pixel vram b depth (e.extractLsb' 0 10).toNat px py (e.getLsbD 14) (e.getLsbD 15) = tileColor vram b depth e px py := by
  rw [pixel, planePair_sum, Nat.mul_div_cancel' (Nat.dvd_of_mod_eq_zero hd), BitVec.extractLsb'_toNat, Nat.shiftRight_zero]
  rfl

/-- A number of `n` binary digits (R908). -/
theorem sum_planes_lt (p : Nat → Bool) (n : Nat) : ((List.range n).map fun k => if p k then 2 ^ k else 0).sum < 2 ^ n := by
  induction n with
  | zero => exact Nat.one_pos
  | succ n ih =>
    rw [List.range_succ, List.map_append, List.sum_append, Nat.pow_succ]
    simp only [List.map_cons, List.map_nil, List.sum_cons, List.sum_nil]
    split_ifs <;> omega

theorem tileColor_lt (vram : Cells Word) (b : BgLayer) (depth : Nat) (e : Word) (px py : Nat) :
    tileColor vram b depth e px py < 2 ^ depth := sum_planes_lt _ _

theorem palIndex_eq {mode : BitVec 3} (h : mode = 0 ∨ mode = 1 ∨ mode = 3) (n group color : Nat) :
    palIndex mode n group color = BitVec.ofNat 8 (paletteIndex mode n group color) := by
  rcases h with rfl | rfl | rfl
  all_goals rfl

/-- Palette indices of the layers drawn fit a byte (R909). -/
theorem paletteIndex_lt {mode : BitVec 3} {n group color : Nat} (hn : n < 3) (hg : group < 8)
    (hc : color < 2 ^ colorDepth mode n) : paletteIndex mode n group color < 256 := by
  unfold colorDepth at hc
  unfold paletteIndex
  split_ifs at hc ⊢ <;> omega

theorem priOf_hides (sel : PriSel) (pri : Bool) :
    ((sel = .high && !pri) || (sel = .low && pri)) = true ↔ priOf sel = some (!pri) := by
  cases sel <;> cases pri <;> decide

/-- What a rank shows, as the byte the model computes (R899, R907 to R909). -/
theorem layerPixel_toNat {u : Ppu} (hmode : u.mode = 0 ∨ u.mode = 1 ∨ u.mode = 3) {n : Nat} (hn : n < 3) (sel : PriSel)
    (y x : Nat) : (layerPixel u n sel y x).toNat = layerShown u y x n (priOf sel) := by
  have heven : colorDepth u.mode n % 2 = 0 := by
    unfold colorDepth
    split_ifs <;> rfl
  simp only [layerPixel, layerShown, read_mapAddr, layerDepth_eq hmode, pixel_eq_tileColor heven, palIndex_eq hmode]
  generalize (x + (u.bg.get n).hofs.toNat) % 1024 = px
  generalize (y + (u.bg.get n).vofs.toNat) % 1024 = py
  generalize mapEntry u.vram (u.bg.get n) px py = e
  have hcolor := tileColor_lt u.vram (u.bg.get n) (colorDepth u.mode n) e px py
  generalize tileColor u.vram (u.bg.get n) (colorDepth u.mode n) e px py = color at hcolor ⊢
  have hgroup : (e.extractLsb' 10 3).toNat = e.toNat / 1024 % 8 := by
    rw [BitVec.extractLsb'_toNat, Nat.shiftRight_eq_div_pow]
  by_cases hhidden : priOf sel = some (!e.getLsbD 13)
  · rw [if_pos ((priOf_hides _ _).2 hhidden), if_pos (.inl hhidden)]
    rfl
  · rw [if_neg (mt (priOf_hides _ _).1 hhidden)]
    by_cases hclear : color = 0
    · rw [if_pos hclear, if_pos (.inr hclear)]
      rfl
    · rw [if_neg hclear, if_neg (not_or.2 ⟨hhidden, hclear⟩), hgroup, BitVec.toNat_ofNat,
        Nat.mod_eq_of_lt (paletteIndex_lt hn (Nat.mod_lt _ (by decide)) hcolor)]

/-! ## A line (R898, R903 to R905) -/

/-- The ranks of the implemented modes, front first (R903, R904, R905). -/
def rankOrder (mode : BitVec 3) (bg3prio : Bool) : List (Nat × Option Bool) :=
  if mode = 0 then [(0, none), (1, none), (2, none)]
  else if mode = 3 then [(0, none)]
  else if bg3prio then [(2, some true), (0, some true), (1, some true), (0, some false), (1, some false), (2, some false)]
  else [(0, some true), (1, some true), (0, some false), (1, some false), (2, some true), (2, some false)]

theorem rankOrder_eq {mode : BitVec 3} (h : mode = 0 ∨ mode = 1 ∨ mode = 3) (bg3prio : Bool) :
    rankOrder mode bg3prio = (ranks mode bg3prio).map (Prod.map id priOf) := by
  rcases h with rfl | rfl | rfl
  · rfl
  · cases bg3prio <;> rfl
  · rfl

theorem ranks_layer_lt {mode : BitVec 3} (h : mode = 0 ∨ mode = 1 ∨ mode = 3) (bg3prio : Bool) :
    ∀ r ∈ ranks mode bg3prio, r.1 < 3 := by
  rcases h with rfl | rfl | rfl
  all_goals
    cases bg3prio
    all_goals decide

theorem firstShown_toNat (l : List Byte) : (firstShown l).toNat = ((l.map (·.toNat)).find? (· ≠ 0)).getD 0 := by
  induction l with
  | nil => rfl
  | cons v l ih =>
    rw [firstShown_cons, List.map_cons, List.find?_cons]
    by_cases h : v = 0
    · subst h
      exact ih
    · have h' : v.toNat ≠ 0 := fun h0 => h (BitVec.eq_of_toNat_eq h0)
      rw [if_pos h, decide_eq_true h']
      rfl

/-- The enabled ranks of a line, front first (R899). -/
def drawnRanks (u : Ppu) : List (Nat × Option Bool) := (rankOrder u.mode u.bg3prio).filter fun r => u.tm.getLsbD r.1

theorem lineIndices_toNat {u : Ppu} (hmode : u.mode = 0 ∨ u.mode = 1 ∨ u.mode = 3) (y : Nat) {x : Nat} (hx : x < 256) :
    ((lineIndices u y)[x]?).map (·.toNat) =
      some ((((drawnRanks u).map fun r => layerShown u y x r.1 r.2).find? (· ≠ 0)).getD 0) := by
  rw [lineIndices_get u y hx, Option.map_some, firstShown_toNat, List.map_map, drawnRanks, rankOrder_eq hmode, List.filter_map,
    List.map_map]
  have hpixels : ∀ r ∈ (ranks u.mode u.bg3prio).filter fun r => u.tm.getLsbD r.1,
      (layerPixel u r.1 r.2 y x).toNat = layerShown u y x r.1 (priOf r.2) := fun r hr =>
    layerPixel_toNat hmode (ranks_layer_lt hmode _ r (List.mem_of_mem_filter hr)) r.2 y x
  exact congrArg (fun l : List Nat => some ((l.find? (· ≠ 0)).getD 0)) (List.map_congr_left hpixels)

theorem tileSizeUsed_eq {u : Ppu} (hmode : u.mode = 0 ∨ u.mode = 1 ∨ u.mode = 3) :
    tileSizeUsed u = (drawnRanks u).any fun r => (u.bg.get r.1).tilesize := by
  rw [tileSizeUsed, drawnRanks, rankOrder_eq hmode, List.any_filter, List.any_map]
  rfl

/-- The buffer being written (R153). -/
def writtenBuffer (u : Ppu) : Cells (List Rgba) := if u.wbuf then u.fb1 else u.fb0

theorem paintLine_eq (u : Ppu) (y : Nat) :
    let fb := Cells.write blankRow y ((lineIndices u y).map (pcache u)) (writtenBuffer u)
    paintLine u y = { u with
      line := lineIndices u y, fb0 := if u.wbuf then u.fb0 else fb, fb1 := if u.wbuf then fb else u.fb1 } := by
  cases h : u.wbuf <;> simp [paintLine, writtenBuffer, h]

theorem writtenBuffer_wf {s : State} (hm : Memory.wf s = true) : Cells.wf blankRow 224 (writtenBuffer s.ppu) = true := by
  obtain ⟨-, -, -, -, -, -, -, h0, h1⟩ := memory_wf_iff.1 hm
  unfold writtenBuffer
  split_ifs
  · exact h1
  · exact h0

theorem mode_mem_iff (mode : BitVec 3) : mode ∈ [0#3, 1#3, 3#3] ↔ mode = 0 ∨ mode = 1 ∨ mode = 3 := by
  simp

/-- Settles O15: a rendered line is computed pixel by pixel from the ranks, and the two handlers end in the states of their rules. -/
theorem lineEvents : Obligations.LineEvents := by
  intro s ts u y order drawn shown
  refine ⟨fun h => handleHblank_blank h ts, fun h hmode => ?_, fun h hmode => ?_, fun h1 h2 => ?_, fun h hn => ?_,
    fun h hn t ht => ?_, fun h => ?_⟩
  · have hmode' := (mode_mem_iff _).1 hmode
    have hdraw := renderLine_run (y := s.sched.vline) hmode'
    refine ⟨_, lineIndices u y, Cells.write blankRow y ((lineIndices u y).map (pcache u)) (writtenBuffer u), hdraw,
      handleHblank_drawn h hdraw ts, ?_, fun hm k => ?_, lineIndices_length u y, fun x hx => lineIndices_toNat hmode' y hx⟩
    · rw [State.onPpu, State.onMarks, paintLine_eq, lineMarks, tileSizeUsed_eq hmode']
      rfl
    · exact read_write (writtenBuffer_wf hm) k
  · exact handleHblank_unimplemented h (mt (mode_mem_iff _).2 hmode) ts
  · rw [handleEol_cases, eolBody_between h1 h2]
    rfl
  · rw [handleEol_cases, eolBody_vblank h, hn]
    rfl
  · rw [handleEol_cases, eolBody_vblank h, hn, if_pos rfl]
    have ht' : fireNmi.run (vblankStart s) = .ok () t := ht
    rw [ht']
  · rw [handleEol_cases, eolBody_wrap h]
    rfl

end Sys2Proof.Proofs
